-- ==== Sys2Proof/Word.lean ====
section
/-! DEFINITION. The word types of the machine (spec rules R8, R11, R12, R21, R24, R27, R71): every register, memory
byte, timer, immediate and address is an unsigned value of a fixed width. -/

namespace Sys2Proof

/-- One byte: a general register, a memory cell, a timer, an immediate `NN` (R8 `V_WIDTH`, `TIMER_WIDTH`). -/
abbrev Byte := BitVec 8

/-- Sixteen bits: an opcode, PC, the index register I, a return address (R8 `INSN_WIDTH`, `PC_WIDTH`, `I_WIDTH`). -/
abbrev Word := BitVec 16

/-- A four-bit opcode field: the count `N` of DXYN, or a nibble the decoder ignores (R71, R76, R77, R78). -/
abbrev Nibble := BitVec 4

/-- The twelve-bit address field `NNN` of an opcode (R71, R74). -/
abbrev Addr := BitVec 12

/-- A general register's number, 0 to 15: the opcode fields X and Y (R21, R73). -/
abbrev Reg := Fin 16

/-- A hexadecimal key value, 0x0 to 0xF (R8 `NUM_KEYS`, R210). -/
abbrev Key := Fin 16

/-- One framebuffer row: 64 pixels; bit `63 - x` is the pixel of column `x` (R31, R179). -/
abbrev Row := BitVec 64

end Sys2Proof
end

