-- ==== Sys2Proof/Config.lean ====
section
/-! DEFINITION. The configuration parameters of R9 as named options, and the FREE VALUES: what the host may give the block,
under no law (R40, R281). The free values are opaque constants: nothing in Lean can evaluate them, so a statement that holds
holds whatever they are. `TICK_RATE` of R9 is outside the model (R9, R270). -/

namespace Sys2Proof

/-- `SHIFT_SOURCE` (R9, R109, R111): which register 8XY6 and 8XYE shift. -/
inductive ShiftSource where
  /-- shift VX itself -/
  | shiftVX
  /-- VX receives VY shifted -/
  | shiftVY
deriving DecidableEq, Repr

/-- `JUMP_OFFSET_REG` (R9, R148): which register BNNN adds. -/
inductive JumpOffsetReg where
  /-- PC <- NNN + V0 -/
  | offsetV0
  /-- PC <- NNN + VX, X the top nibble of NNN -/
  | offsetVX
deriving DecidableEq, Repr

/-- `SPRITE_EDGE` (R9, R173 to R175): what DXYN does at the edge of the framebuffer. -/
inductive SpriteEdge where
  /-- both axes wrap (R173) -/
  | wrap
  /-- pixels outside are skipped (R174) -/
  | clip
  /-- the source implementation's asymmetric behaviour (R175) -/
  | reference
deriving DecidableEq, Repr

/-- `STACK_DEPTH` (R9, R28): a bound on the call stack, or none. -/
inductive StackDepth where
  /-- at most `n` entries, `n >= 1` (checked by `Config.wf`) -/
  | bounded (n : Nat)
  /-- no bound -/
  | unbounded
deriving DecidableEq, Repr

/-- `STACK_OVERFLOW_POLICY` (R9, R143). -/
inductive StackOverflowPolicy where
  /-- a call on a full stack is a fatal condition -/
  | fatal
  /-- a call on a full stack is a no-op with a diagnostic -/
  | ignore
deriving DecidableEq, Repr

/-- The parameters of R9. They are fixed for the life of a machine (R10) and are no state of the hardware (R37); the model
carries them in `State.cfg`, which no step writes, so that a statement about every state is about every configuration
(log entry 1). -/
structure Config where
  /-- `STACK_DEPTH` -/
  stackDepth : StackDepth
  /-- `STACK_OVERFLOW_POLICY` -/
  stackOverflowPolicy : StackOverflowPolicy
  /-- `SHIFT_SOURCE` -/
  shiftSource : ShiftSource
  /-- `JUMP_OFFSET_REG` -/
  jumpOffsetReg : JumpOffsetReg
  /-- `SPRITE_EDGE` -/
  spriteEdge : SpriteEdge
  /-- `TIMERS_RUN_IN_KEYWAIT` -/
  timersRunInKeywait : Bool
  /-- `FONT_TABLE`: 80 bytes (length checked by `Config.wf`) -/
  fontTable : List Byte
deriving DecidableEq, Repr

/-- FREE VALUE. The key levels `keys_down` of the `n`th `Step` command that no script gives (R40, R210). Log entry 2. -/
opaque Config.freeKeysDown : Nat → BitVec 16

/-- FREE VALUE. The key-down event `key_event` of the `n`th `Step` command that no script gives (R40, R210). Log entry 2. -/
opaque Config.freeKeyEvent : Nat → Option Key

/-- FREE VALUE. The random byte `rnd` of the `n`th `Step` command that no script gives (R40, R120). Log entry 2. -/
opaque Config.freeRnd : Nat → Byte

/-- FREE VALUE. How many `Tick` commands the host issues before the `n`th `Step` command that no script gives (R281, R321).
Log entry 3. -/
opaque Config.freeTicks : Nat → Nat

end Sys2Proof
end

