-- ==== Sys2Proof/Syntax.lean ====
section
/-! DEFINITION. The instruction set: one constructor per row of spec/opcode_table.json (R76), with the operand fields of
R71 and R73. Where a row ignores a nibble (`0?E0`, `0?EE`: bits 11:8; `5XYN`, `9XYN`: N; R77, R78) the constructor carries
it as a don't-care operand, so that an instruction determines its opcode: a fatal condition and a diagnostic record the
whole opcode (R261), ignored bits among it. Log entry 11. -/

namespace Sys2Proof

/-- The 34 instructions of R76. `x` and `y` are register fields, `nn` an immediate byte, `nnn` a 12-bit address, `n` the
low nibble, `z` the ignored second nibble of family 0x0. -/
inductive Instr where
  /-- `CLS` 0?E0: clear the framebuffer (R177). -/
  | cls (z : Nibble)
  /-- `RET` 0?EE: return from subroutine (R141). -/
  | ret (z : Nibble)
  /-- `JP addr` 1NNN (R142). -/
  | jp (nnn : Addr)
  /-- `CALL addr` 2NNN (R143). -/
  | call (nnn : Addr)
  /-- `SE Vx, byte` 3XNN: skip if equal (R144). -/
  | seImm (x : Reg) (nn : Byte)
  /-- `SNE Vx, byte` 4XNN: skip if not equal (R145). -/
  | sneImm (x : Reg) (nn : Byte)
  /-- `SE Vx, Vy` 5XYN: skip if equal, N ignored (R146). -/
  | seReg (x y : Reg) (n : Nibble)
  /-- `LD Vx, byte` 6XNN (R101). -/
  | ldImm (x : Reg) (nn : Byte)
  /-- `ADD Vx, byte` 7XNN (R102). -/
  | addImm (x : Reg) (nn : Byte)
  /-- `LD Vx, Vy` 8XY0 (R103). -/
  | ldReg (x y : Reg)
  /-- `OR Vx, Vy` 8XY1 (R104). -/
  | orReg (x y : Reg)
  /-- `AND Vx, Vy` 8XY2 (R105). -/
  | andReg (x y : Reg)
  /-- `XOR Vx, Vy` 8XY3 (R106). -/
  | xorReg (x y : Reg)
  /-- `ADD Vx, Vy` 8XY4: VF is the carry (R107). -/
  | addReg (x y : Reg)
  /-- `SUB Vx, Vy` 8XY5: VF is not-borrow (R108). -/
  | subReg (x y : Reg)
  /-- `SHR Vx {, Vy}` 8XY6: VF is the bit shifted out (R109). -/
  | shr (x y : Reg)
  /-- `SUBN Vx, Vy` 8XY7: VF is not-borrow (R110). -/
  | subn (x y : Reg)
  /-- `SHL Vx {, Vy}` 8XYE: VF is the bit shifted out (R111). -/
  | shl (x y : Reg)
  /-- `SNE Vx, Vy` 9XYN: skip if not equal, N ignored (R147). -/
  | sneReg (x y : Reg) (n : Nibble)
  /-- `LD I, addr` ANNN (R230). -/
  | ldI (nnn : Addr)
  /-- `JP V0, addr` BNNN: jump with offset (R148). -/
  | jpV0 (nnn : Addr)
  /-- `RND Vx, byte` CXNN (R120). -/
  | rnd (x : Reg) (nn : Byte)
  /-- `DRW Vx, Vy, nibble` DXYN: draw a sprite (R178). -/
  | drw (x y : Reg) (n : Nibble)
  /-- `SKP Vx` EX9E: skip if the key is down (R211). -/
  | skp (x : Reg)
  /-- `SKNP Vx` EXA1: skip if the key is not down (R212). -/
  | sknp (x : Reg)
  /-- `LD Vx, DT` FX07 (R200). -/
  | ldVxDt (x : Reg)
  /-- `LD Vx, K` FX0A: wait for a key (R213). -/
  | ldVxK (x : Reg)
  /-- `LD DT, Vx` FX15 (R201). -/
  | ldDtVx (x : Reg)
  /-- `LD ST, Vx` FX18 (R202). -/
  | ldStVx (x : Reg)
  /-- `ADD I, Vx` FX1E (R231). -/
  | addI (x : Reg)
  /-- `LD F, Vx` FX29: font address (R232). -/
  | ldF (x : Reg)
  /-- `LD B, Vx` FX33: BCD store (R233). -/
  | ldB (x : Reg)
  /-- `LD [I], Vx` FX55: store V0..VX (R234). -/
  | storeRegs (x : Reg)
  /-- `LD Vx, [I]` FX65: load V0..VX (R235). -/
  | loadRegs (x : Reg)
deriving DecidableEq, Repr

end Sys2Proof
end

