-- ==== Sys2Proof/WellFormed.lean ====
section
/-! DEFINITION. Well-formedness: of an instruction, of a configuration (R9), of a ROM image (R59, R302). -/

namespace Sys2Proof

/-- An instruction is well-formed. The types of its fields already say all that R71 and R73 ask (a register number is
`Fin 16`, an immediate `BitVec 8`, an address `BitVec 12`, a nibble `BitVec 4`), and the spec forbids no combination of
operand values (R21, R73: X and Y may be equal, either may be 15; R77, R78: an ignored nibble may hold anything), so no
constructor has a further check. -/
def Instr.wf : Instr → Bool
  | .cls _ | .ret _ | .jp _ | .call _ | .ldI _ | .jpV0 _ => true
  | .seImm _ _ | .sneImm _ _ | .ldImm _ _ | .addImm _ _ | .rnd _ _ => true
  | .seReg _ _ _ | .sneReg _ _ _ | .drw _ _ _ => true
  | .ldReg _ _ | .orReg _ _ | .andReg _ _ | .xorReg _ _ | .addReg _ _ | .subReg _ _ => true
  | .shr _ _ | .subn _ _ | .shl _ _ => true
  | .skp _ | .sknp _ | .ldVxDt _ | .ldVxK _ | .ldDtVx _ | .ldStVx _ => true
  | .addI _ | .ldF _ | .ldB _ | .storeRegs _ | .loadRegs _ => true

/-- `STACK_DEPTH` is a natural number >= 1, or unbounded (R9). -/
def StackDepth.wf : StackDepth → Bool
  | .bounded n => decide (1 ≤ n)
  | .unbounded => true

/-- The font is 80 bytes (R9, R33). -/
def fontWf (font : List Byte) : Bool := font.length == 80

/-- A configuration is well-formed: its stack bound and its font are (R9). -/
def Config.wf (c : Config) : Bool := c.stackDepth.wf && fontWf c.fontTable

/-- A ROM image fits the program region: at most 4096 - 0x200 = 3584 bytes (R59, R302). -/
def romFits (rom : List Byte) : Bool := decide (rom.length ≤ 4096 - 0x200)

end Sys2Proof
end

