-- ==== Sys2Proof/Decode.lean ====
section
/-! DEFINITION. The decoder of R75 to R83, total on any bytes and rejecting by name, and after it the encoder, written from
the same table (R76), and the table's mask and match of each instruction. -/

namespace Sys2Proof

/-- Two bytes as one word, the first one the high byte `op[15:8]` (R54). -/
def wordOfBytes (hi lo : Byte) : Word := hi ++ lo

/-- The high byte of a word, stored at the lower address (R54). -/
def highByte (w : Word) : Byte := w.extractLsb' 8 8

/-- The low byte of a word, stored at the higher address (R54). -/
def lowByte (w : Word) : Byte := w.extractLsb' 0 8

/-- Why the decoder gives no instruction. -/
inductive Reject where
  /-- fewer than two bytes: every instruction is two bytes (R70) -/
  | tooShort
  /-- the word is none of the 34 rows: an unknown opcode (R82, R83) -/
  | unknownOpcode (op : Word)
deriving DecidableEq, Repr

/-- The family `F`, `op[15:12]` (R71). -/
def opF (op : Word) : Nibble := op.extractLsb' 12 4

/-- The second nibble `op[11:8]` as bits (R71), for the rows that ignore it. -/
def opZ (op : Word) : Nibble := op.extractLsb' 8 4

/-- The register field X, `op[11:8]` (R71, R73). -/
def opX (op : Word) : Reg := (op.extractLsb' 8 4).toFin

/-- The register field Y, `op[7:4]` (R71, R73). -/
def opY (op : Word) : Reg := (op.extractLsb' 4 4).toFin

/-- The low nibble N, `op[3:0]` (R71). -/
def opN (op : Word) : Nibble := op.extractLsb' 0 4

/-- The low byte NN, `op[7:0]` (R71, R74). -/
def opNN (op : Word) : Byte := op.extractLsb' 0 8

/-- The address NNN, `op[11:0]` (R71, R74). -/
def opNNN (op : Word) : Addr := op.extractLsb' 0 12

/-- Family 0x0 dispatches on NN alone (R78). -/
def decode0 (op : Word) : Except Reject Instr :=
  match (opNN op).toNat with
  | 0xE0 => .ok (.cls (opZ op))
  | 0xEE => .ok (.ret (opZ op))
  | _ => .error (.unknownOpcode op)

/-- Family 0x8 dispatches on N (R79). -/
def decode8 (op : Word) : Except Reject Instr :=
  match (opN op).toNat with
  | 0x0 => .ok (.ldReg (opX op) (opY op))
  | 0x1 => .ok (.orReg (opX op) (opY op))
  | 0x2 => .ok (.andReg (opX op) (opY op))
  | 0x3 => .ok (.xorReg (opX op) (opY op))
  | 0x4 => .ok (.addReg (opX op) (opY op))
  | 0x5 => .ok (.subReg (opX op) (opY op))
  | 0x6 => .ok (.shr (opX op) (opY op))
  | 0x7 => .ok (.subn (opX op) (opY op))
  | 0xE => .ok (.shl (opX op) (opY op))
  | _ => .error (.unknownOpcode op)

/-- Family 0xE dispatches on NN (R80). -/
def decodeE (op : Word) : Except Reject Instr :=
  match (opNN op).toNat with
  | 0x9E => .ok (.skp (opX op))
  | 0xA1 => .ok (.sknp (opX op))
  | _ => .error (.unknownOpcode op)

/-- Family 0xF dispatches on NN (R81). -/
def decodeF (op : Word) : Except Reject Instr :=
  match (opNN op).toNat with
  | 0x07 => .ok (.ldVxDt (opX op))
  | 0x0A => .ok (.ldVxK (opX op))
  | 0x15 => .ok (.ldDtVx (opX op))
  | 0x18 => .ok (.ldStVx (opX op))
  | 0x1E => .ok (.addI (opX op))
  | 0x29 => .ok (.ldF (opX op))
  | 0x33 => .ok (.ldB (opX op))
  | 0x55 => .ok (.storeRegs (opX op))
  | 0x65 => .ok (.loadRegs (opX op))
  | _ => .error (.unknownOpcode op)

/-- Decoding of one opcode: the top nibble selects a family, and families 0x0, 0x8, 0xE and 0xF dispatch further (R75,
R76). It reads no state and no configuration (R83). -/
def decodeWord (op : Word) : Except Reject Instr :=
  match (opF op).toNat with
  | 0x0 => decode0 op
  | 0x1 => .ok (.jp (opNNN op))
  | 0x2 => .ok (.call (opNNN op))
  | 0x3 => .ok (.seImm (opX op) (opNN op))
  | 0x4 => .ok (.sneImm (opX op) (opNN op))
  | 0x5 => .ok (.seReg (opX op) (opY op) (opN op))
  | 0x6 => .ok (.ldImm (opX op) (opNN op))
  | 0x7 => .ok (.addImm (opX op) (opNN op))
  | 0x8 => decode8 op
  | 0x9 => .ok (.sneReg (opX op) (opY op) (opN op))
  | 0xA => .ok (.ldI (opNNN op))
  | 0xB => .ok (.jpV0 (opNNN op))
  | 0xC => .ok (.rnd (opX op) (opNN op))
  | 0xD => .ok (.drw (opX op) (opY op) (opN op))
  | 0xE => decodeE op
  | 0xF => decodeF op
  | _ => .error (.unknownOpcode op)

/-- Decoding of bytes as they stand in memory: two bytes, the high one first (R54, R70), and the rest. -/
def decode : List Byte → Except Reject (Instr × List Byte)
  | hi :: lo :: rest =>
    match decodeWord (wordOfBytes hi lo) with
    | .ok i => .ok (i, rest)
    | .error r => .error r
  | _ => .error .tooShort

/-- What the decoder reads from the opcode-table word `w` of `nbits` bits: the word is laid out as memory holds it, high
byte first, and decoded. -/
def decodeTableWord (nbits w : Nat) : Option Instr :=
  match decode [highByte (BitVec.ofNat 16 (w % 2 ^ nbits)), lowByte (BitVec.ofNat 16 (w % 2 ^ nbits))] with
  | .ok (i, _) => some i
  | .error _ => none

/-! ### The encoder (R71, R76) -/

/-- Four nibbles as a word: family, second, third, low (R71). -/
def word4 (f z y n : Nibble) : Word := f ++ z ++ y ++ n

/-- The register number as an opcode field (R73). -/
def regBits (r : Reg) : Nibble := BitVec.ofFin r

/-- The row shape FXNN (R71). -/
def wordXNN (f : Nibble) (z : Nibble) (nn : Byte) : Word := f ++ z ++ nn

/-- The row shape FNNN (R71). -/
def wordNNN (f : Nibble) (nnn : Addr) : Word := f ++ nnn

/-- The opcode of an instruction (R76). -/
def encode : Instr → Word
  | .cls z => wordXNN 0x0 z 0xE0
  | .ret z => wordXNN 0x0 z 0xEE
  | .jp nnn => wordNNN 0x1 nnn
  | .call nnn => wordNNN 0x2 nnn
  | .seImm x nn => wordXNN 0x3 (regBits x) nn
  | .sneImm x nn => wordXNN 0x4 (regBits x) nn
  | .seReg x y n => word4 0x5 (regBits x) (regBits y) n
  | .ldImm x nn => wordXNN 0x6 (regBits x) nn
  | .addImm x nn => wordXNN 0x7 (regBits x) nn
  | .ldReg x y => word4 0x8 (regBits x) (regBits y) 0x0
  | .orReg x y => word4 0x8 (regBits x) (regBits y) 0x1
  | .andReg x y => word4 0x8 (regBits x) (regBits y) 0x2
  | .xorReg x y => word4 0x8 (regBits x) (regBits y) 0x3
  | .addReg x y => word4 0x8 (regBits x) (regBits y) 0x4
  | .subReg x y => word4 0x8 (regBits x) (regBits y) 0x5
  | .shr x y => word4 0x8 (regBits x) (regBits y) 0x6
  | .subn x y => word4 0x8 (regBits x) (regBits y) 0x7
  | .shl x y => word4 0x8 (regBits x) (regBits y) 0xE
  | .sneReg x y n => word4 0x9 (regBits x) (regBits y) n
  | .ldI nnn => wordNNN 0xA nnn
  | .jpV0 nnn => wordNNN 0xB nnn
  | .rnd x nn => wordXNN 0xC (regBits x) nn
  | .drw x y n => word4 0xD (regBits x) (regBits y) n
  | .skp x => wordXNN 0xE (regBits x) 0x9E
  | .sknp x => wordXNN 0xE (regBits x) 0xA1
  | .ldVxDt x => wordXNN 0xF (regBits x) 0x07
  | .ldVxK x => wordXNN 0xF (regBits x) 0x0A
  | .ldDtVx x => wordXNN 0xF (regBits x) 0x15
  | .ldStVx x => wordXNN 0xF (regBits x) 0x18
  | .addI x => wordXNN 0xF (regBits x) 0x1E
  | .ldF x => wordXNN 0xF (regBits x) 0x29
  | .ldB x => wordXNN 0xF (regBits x) 0x33
  | .storeRegs x => wordXNN 0xF (regBits x) 0x55
  | .loadRegs x => wordXNN 0xF (regBits x) 0x65

/-- The bytes of an instruction as memory holds them: high byte first (R54). -/
def encodeBytes (i : Instr) : List Byte := [highByte (encode i), lowByte (encode i)]

/-! ### The opcode table (R76) -/

/-- A row of R76's table: a word `op` selects it when `op &&& mask = value`. -/
structure OpcodeRow where
  /-- the column `match` -/
  value : Word
  /-- the column `mask` -/
  mask : Word
deriving DecidableEq, Repr

/-- The row of R76 an instruction belongs to. -/
def Instr.row : Instr → OpcodeRow
  | .cls _ => ⟨0x00E0, 0xF0FF⟩
  | .ret _ => ⟨0x00EE, 0xF0FF⟩
  | .jp _ => ⟨0x1000, 0xF000⟩
  | .call _ => ⟨0x2000, 0xF000⟩
  | .seImm _ _ => ⟨0x3000, 0xF000⟩
  | .sneImm _ _ => ⟨0x4000, 0xF000⟩
  | .seReg _ _ _ => ⟨0x5000, 0xF000⟩
  | .ldImm _ _ => ⟨0x6000, 0xF000⟩
  | .addImm _ _ => ⟨0x7000, 0xF000⟩
  | .ldReg _ _ => ⟨0x8000, 0xF00F⟩
  | .orReg _ _ => ⟨0x8001, 0xF00F⟩
  | .andReg _ _ => ⟨0x8002, 0xF00F⟩
  | .xorReg _ _ => ⟨0x8003, 0xF00F⟩
  | .addReg _ _ => ⟨0x8004, 0xF00F⟩
  | .subReg _ _ => ⟨0x8005, 0xF00F⟩
  | .shr _ _ => ⟨0x8006, 0xF00F⟩
  | .subn _ _ => ⟨0x8007, 0xF00F⟩
  | .shl _ _ => ⟨0x800E, 0xF00F⟩
  | .sneReg _ _ _ => ⟨0x9000, 0xF000⟩
  | .ldI _ => ⟨0xA000, 0xF000⟩
  | .jpV0 _ => ⟨0xB000, 0xF000⟩
  | .rnd _ _ => ⟨0xC000, 0xF000⟩
  | .drw _ _ _ => ⟨0xD000, 0xF000⟩
  | .skp _ => ⟨0xE09E, 0xF0FF⟩
  | .sknp _ => ⟨0xE0A1, 0xF0FF⟩
  | .ldVxDt _ => ⟨0xF007, 0xF0FF⟩
  | .ldVxK _ => ⟨0xF00A, 0xF0FF⟩
  | .ldDtVx _ => ⟨0xF015, 0xF0FF⟩
  | .ldStVx _ => ⟨0xF018, 0xF0FF⟩
  | .addI _ => ⟨0xF01E, 0xF0FF⟩
  | .ldF _ => ⟨0xF029, 0xF0FF⟩
  | .ldB _ => ⟨0xF033, 0xF0FF⟩
  | .storeRegs _ => ⟨0xF055, 0xF0FF⟩
  | .loadRegs _ => ⟨0xF065, 0xF0FF⟩

/-- A word selects a row (R76). -/
def OpcodeRow.selects (r : OpcodeRow) (op : Word) : Bool := op &&& r.mask == r.value

/-- The unknown-opcode space as R82 lists it. -/
def unknownSpace (op : Word) : Bool :=
  (opF op == 0x0 && !([0xE0, 0xEE].contains (opNN op))) ||
  (opF op == 0x8 && [0x8, 0x9, 0xA, 0xB, 0xC, 0xD, 0xF].contains (opN op)) ||
  (opF op == 0xE && !([0x9E, 0xA1].contains (opNN op))) ||
  (opF op == 0xF && !([0x07, 0x0A, 0x15, 0x18, 0x1E, 0x29, 0x33, 0x55, 0x65].contains (opNN op)))

end Sys2Proof
end

