-- ==== Sys2Proof/Machine/State.lean ====
section
/-! DEFINITION. The state as plain data: the tuple of R20, and beside it the model's own fields (the configuration it runs
under, the host's commands that wait, the inputs and the output event of the command in progress). INVENTORY.md lists every
field with its rule and its reset value. -/

namespace Sys2Proof.Machine

/-- Main memory as the cells that differ from their reset contents, addresses strictly rising (R32, R50; log entry 8). -/
abbrev Memory := List Host.Cell

/-- The framebuffer: 32 rows, row `y` one word of 64 pixels, bit `63 - x` the pixel of column `x` (R31, R179; log entry
9). -/
abbrev Framebuffer := Vector Row 32

/-- The fatal conditions of R260. `UnknownOpcode` and `StackOverflowIgnored` are recoverable: `DiagCode`. -/
inductive Cause where
  /-- code 2: 00EE with an empty stack (R141) -/
  | stackUnderflow
  /-- code 3: 2NNN with a full stack under the policy `fatal` (R143) -/
  | stackOverflow
  /-- code 4: DXYN, FX33, FX55 or FX65 outside memory (R53) -/
  | addressFault
  /-- code 5: a fetch at PC >= 0xFFF (R72) -/
  | fetchFault
  /-- code 6: `Load` of more than 3584 bytes (R302) -/
  | oversizedRom
  /-- code 7: DXYN under `SPRITE_EDGE = Reference` past row 31 (R175) -/
  | framebufferFault
deriving DecidableEq, Repr

/-- The recoverable conditions a `Diag` event carries (R260, R262, R284). -/
inductive DiagCode where
  /-- code 1: a word of the unknown space (R262) -/
  | unknownOpcode
  /-- code 3: 2NNN with a full stack under the policy `ignore` (R143) -/
  | stackOverflowIgnored
deriving DecidableEq, Repr

/-- The output events of R284. -/
inductive Event where
  /-- `Present(fb)`, emitted by DXYN -/
  | present (fb : Framebuffer)
  /-- `Clear`, emitted by 00E0 -/
  | clear
  /-- `Diag(code, a, op)` -/
  | diag (code : DiagCode) (addr op : Word)
  /-- `Fatal(cause, addr, op)` -/
  | fatal (cause : Cause) (addr : Word) (op : Option Word)
deriving DecidableEq, Repr

/-- The run state of R29. -/
inductive RunState where
  /-- each `Step` fetches and executes one instruction -/
  | running
  /-- FX0A with register field `x` was executed: the core waits for a key-down event (R213, R214) -/
  | awaitingKey (x : Reg)
  /-- a fatal condition occurred: its cause, the failing address, the failing opcode or none (R263) -/
  | halted (cause : Cause) (addr : Word) (op : Option Word)
deriving DecidableEq, Repr

/-- The inputs of a `Step` command (R40, R283). -/
structure StepInput where
  /-- bit `k` is 1 when key `k` is down -/
  keysDown : BitVec 16
  /-- a key-down event that arrived since the previous `Step` -/
  keyEvent : Option Key
  /-- the random byte -/
  rnd : Byte
deriving DecidableEq, Repr

/-- The value the model's input latch has between commands (log entry 5). -/
def StepInput.idle : StepInput := ⟨0, none, 0⟩

/-- The four commands the block accepts (R280). -/
inductive Command where
  /-- `Reset` (R300) -/
  | reset
  /-- `Load(rom)` (R302) -/
  | load (rom : List Byte)
  /-- `Step(keys_down, key_event, rnd)` (R282) -/
  | step (input : StepInput)
  /-- `Tick` (R270) -/
  | tick
deriving DecidableEq, Repr

/-- The whole state. The first ten fields after `cfg` are the tuple of R20; the last five are the model's own. -/
structure State where
  /-- the configuration the machine was built with: no step writes it (R10, R37; log entry 1) -/
  cfg : Config
  /-- `mem` (R32) -/
  mem : Memory
  /-- `V[0..15]` (R21) -/
  v : Vector Byte 16
  /-- `I` (R27) -/
  i : Word
  /-- `PC` (R24) -/
  pc : Word
  /-- `stack`, its last element on top (R28) -/
  stack : List Word
  /-- `DT` (R30) -/
  dt : Byte
  /-- `ST` (R30) -/
  st : Byte
  /-- `fb` (R31) -/
  fb : Framebuffer
  /-- `run` (R29) -/
  run : RunState
  /-- `sound_on` (R34) -/
  soundOn : Bool
  /-- the output event of the latest command, if it emitted one (R284; log entry 4) -/
  out : Option Event
  /-- the inputs of the `Step` in progress (R40; log entry 5) -/
  input : StepInput
  /-- a `Load` may still come: no `Load` and no `Step` since `Reset` (R302; log entry 7) -/
  loadable : Bool
  /-- the host's commands that wait, the next one first (R280, R281; log entry 2) -/
  pending : List Command
  /-- how many `Step` commands took their inputs from the free values (log entry 2) -/
  draws : Nat
deriving DecidableEq, Repr

/-- Why the machine stops with a fault. -/
inductive Fault where
  /-- The machine is halted by a fatal condition and no command of the host waits: raised by `step` alone, never by an
  instruction's meaning. R264: "A model should treat a halted state as a fault, never as a normal end of a run." SAFE: the
  hardware does nothing there for ever (log entry 6). -/
  | halted (cause : Cause) (addr : Word) (op : Option Word)
deriving DecidableEq, Repr

/-- Why the machine gives a command or an instruction no meaning. -/
inductive Refusal where
  /-- An instruction that has no meaning yet: raised by an arm of `exec` only; no arm raises it now. SAFE. -/
  | notModelled (mnemonic : String)
  /-- A `Load` command that does not come once, after `Reset` and before the first `Step`: raised by the command `Load`
  alone. R302: "a model gives a `Load` at another time no meaning (it refuses it)". SAFE (log entry 7). -/
  | loadOutOfOrder
deriving DecidableEq, Repr

/-- The state after `Reset` under a configuration: R39, R300. Memory lists nothing, since an unlisted address reads as its
reset contents (log entry 8); the model's own fields hold the values of log entries 2, 4, 5 and 7. -/
def State.resetOf (cfg : Config) : State where
  cfg := cfg
  mem := []
  v := Vector.replicate 16 0
  i := 0
  pc := 0x200
  stack := []
  dt := 0
  st := 0
  fb := Vector.replicate 32 0
  run := .running
  soundOn := false
  out := none
  input := .idle
  loadable := true
  pending := []
  draws := 0

/-- The machine right after reset under the default configuration of R9 (R39, R300, R301). -/
def State.reset : State := State.resetOf defaultConfig

end Sys2Proof.Machine
end

