-- ==== Sys2Proof/Machine/Ops.lean ====
section
/-! DEFINITION. The named operations over registers, memory, the program counter, the call stack and the outputs, and the
one shared operation that takes a fatal condition (R263). There is no return from one: R264, R267. -/

namespace Sys2Proof.Machine

/-! ### Constants of R8 -/

/-- The last address of memory (R8 `MEM_SIZE`, R50). -/
def lastAddr : Nat := 0xFFF

/-- `FONT_BASE` (R8). -/
def fontBase : Nat := 0x050

/-- `FONT_SIZE` (R8). -/
def fontSize : Nat := 80

/-- `PROG_BASE`, also the reset PC (R8). -/
def progBase : Nat := 0x200

/-- VF, the flag register (R22). -/
def vf : Reg := 15

/-! ### Registers (R13, R21) -/

/-- `V[r]` (R13, R21). -/
def State.getV (s : State) (r : Reg) : Byte := s.v[r]

/-- `V[r] <- b` (R13, R21). -/
def State.setV (s : State) (r : Reg) (b : Byte) : State := { s with v := s.v.set r b }

/-- `I <- w` (R27). -/
def State.setI (s : State) (w : Word) : State := { s with i := w }

/-- `PC <- w` (R24). -/
def State.setPc (s : State) (w : Word) : State := { s with pc := w }

/-- `DT <- b` (R30). -/
def State.setDt (s : State) (b : Byte) : State := { s with dt := b }

/-- `ST <- b` (R30). -/
def State.setSt (s : State) (b : Byte) : State := { s with st := b }

/-- `fb <- fb'` (R31). -/
def State.setFb (s : State) (fb : Framebuffer) : State := { s with fb := fb }

/-- `run <- r` (R29). -/
def State.setRun (s : State) (r : RunState) : State := { s with run := r }

/-- `emit e` (R15, R284). -/
def State.emit (s : State) (e : Event) : State := { s with out := some e }

/-! ### Memory (R14, R32, R50 to R58) -/

/-- The byte at an address that memory does not list: its reset contents, the font at 0x050 and zero elsewhere (R39, R58). -/
def resetByte (cfg : Config) (a : Nat) : Byte :=
  if fontBase ≤ a ∧ a < fontBase + fontSize then cfg.fontTable.getD (a - fontBase) 0 else 0

/-- The byte of memory at an address, `bg` being what an unlisted address reads as. -/
def Memory.read (bg : Nat → Byte) : Memory → Nat → Byte
  | [], a => bg a
  | (k, b) :: m, a => if a = k then b else Memory.read bg m a

/-- Memory with one byte written, in canonical form. -/
def Memory.write (bg : Nat → Byte) : Memory → Nat → Byte → Memory
  | [], a, b => if b = bg a then [] else [(a, b)]
  | (k, c) :: m, a, b =>
    if a < k then (if b = bg a then (k, c) :: m else (a, b) :: (k, c) :: m)
    else if a = k then (if b = bg a then m else (a, b) :: m)
    else (k, c) :: Memory.write bg m a b

/-- The canonical form: addresses strictly rising and inside memory (R50), no cell equal to what an unlisted address reads
as. -/
abbrev Memory.wf (bg : Nat → Byte) (m : Memory) : Prop :=
  m.Pairwise (fun p q => p.1 < q.1) ∧ ∀ c ∈ m, c.1 ≤ lastAddr ∧ c.2 ≠ bg c.1

/-- `MemRead(a, 1)` (R14). Every access of an instruction or a fetch is range-checked first (R53, R72). -/
def State.readByte (s : State) (a : Nat) : Byte := Memory.read (resetByte s.cfg) s.mem a

/-- `MemWrite(a, 1, b)` (R14). -/
def State.writeByte (s : State) (a : Nat) (b : Byte) : State :=
  { s with mem := Memory.write (resetByte s.cfg) s.mem a b }

/-- Consecutive bytes written from an address upwards, in that order (R56, R233, R234, R302). -/
def State.storeBytes (s : State) (a : Nat) : List Byte → State
  | [] => s
  | b :: bs => (s.writeByte a b).storeBytes (a + 1) bs

/-- `n` consecutive bytes read from an address upwards (R178). -/
def State.readBytes (s : State) (a n : Nat) : List Byte := (List.range n).map fun k => s.readByte (a + k)

/-- `CheckRange(a, n)` passes (R53): the sum is computed without wrap-around, and an access of no byte passes. -/
def inRange (a n : Nat) : Bool := decide (n = 0 ∨ a + n - 1 ≤ lastAddr)

/-! ### The call stack (R28, R141, R143) -/

/-- The stack holds `STACK_DEPTH` entries (R143). -/
def State.stackFull (s : State) : Bool :=
  match s.cfg.stackDepth with
  | .unbounded => false
  | .bounded n => s.stack.length == n

/-- `stack <- stack ++ [w]` (R143). -/
def State.push (s : State) (w : Word) : State := { s with stack := s.stack ++ [w] }

/-- `stack <- init(stack)` (R141). -/
def State.pop (s : State) : State := { s with stack := s.stack.dropLast }

/-! ### Conditions (R15, R260 to R263) -/

/-- The address `a` of the instruction in its execute phase, where PC is already `a + 2` (R16, R24). -/
def State.instrAddr (s : State) : Word := s.pc - 2

/-- The numeric code of a fatal condition (R260). -/
def Cause.code : Cause → Nat
  | .stackUnderflow => 2
  | .stackOverflow => 3
  | .addressFault => 4
  | .fetchFault => 5
  | .oversizedRom => 6
  | .framebufferFault => 7

/-- The numeric code of a recoverable condition (R260). -/
def DiagCode.code : DiagCode → Nat
  | .unknownOpcode => 1
  | .stackOverflowIgnored => 3

/-- `run <- Halted(cause, addr, op)` and `emit Fatal(cause, addr, op)`: what R263 and R302 share. -/
def State.halt (s : State) (c : Cause) (addr : Word) (op : Option Word) : State :=
  (s.setRun (.halted c addr op)).emit (.fatal c addr op)

/-- `raise Fatal(cause)` in an instruction's execute phase (R263): taken before the instruction's first write, so restoring
the state at the start of the `Step` is setting PC back to the instruction's address `a`; then the core halts with the
cause, `a` and the opcode. `s` is the state the execute phase starts in. -/
def State.raiseFatal (s : State) (c : Cause) (op : Word) : State :=
  (s.setPc s.instrAddr).halt c s.instrAddr (some op)

/-- `log code(a, op)`: the diagnostic event of a recoverable condition in the execute phase (R15, R262). -/
def State.logDiag (s : State) (c : DiagCode) (op : Word) : State := s.emit (.diag c s.instrAddr op)

/-! ### Fetch (R54, R72) -/

/-- Both bytes at PC lie in memory (R72). -/
def State.canFetch (s : State) : Bool := decide (s.pc.toNat + 1 ≤ lastAddr)

/-- The opcode at PC, big-endian (R54, R72). -/
def State.fetchWord (s : State) : Word := wordOfBytes (s.readByte s.pc.toNat) (s.readByte (s.pc.toNat + 1))

/-- `PC <- (a + 2) mod 65536` (R72). -/
def State.advancePc (s : State) : State := s.setPc (s.pc + 2)

/-- `raise Fatal(FetchFault)` (R72, R263): PC is unchanged and no opcode is recorded. -/
def State.raiseFetchFault (s : State) : State := s.halt .fetchFault s.pc none

/-- Whether the run state is `Halted` (R29). -/
def RunState.isHalted : RunState → Bool
  | .halted _ _ _ => true
  | .running | .awaitingKey _ => false

end Sys2Proof.Machine
end

