-- ==== Sys2Proof/Machine/Flags.lean ====
section
/-! DEFINITION. Every flag computation the spec gives (R22, R36, R100, R107 to R111, R121), and the one way an instruction
writes a result and then the flag. The collision flag of DXYN comes from the compositor (R176). -/

namespace Sys2Proof.Machine

/-- A flag as VF holds it: 1 or 0 (R36). -/
def flagByte (f : Bool) : Byte := if f then 1 else 0

/-- `V[F] <- f ? 1 : 0` (R22, R36). -/
def State.setFlag (s : State) (f : Bool) : State := s.setV vf (flagByte f)

/-- Result first, flag last: with X = F the flag is what remains (R22, R100). -/
def State.setResultAndFlag (s : State) (x : Reg) (result : Byte) (f : Bool) : State := (s.setV x result).setFlag f

/-- Carry of 8XY4: the unsigned sum exceeds 255 (R36, R107). -/
def carryOut (a b : Byte) : Bool := decide (a.toNat + b.toNat > 255)

/-- Not-borrow of `p - q` (R36, R108, R110). -/
def notBorrow (p q : Byte) : Bool := decide (p.toNat ≥ q.toNat)

/-- The bit 8XY6 shifts out: bit 0 before the shift (R36, R109). -/
def shiftedOutRight (b : Byte) : Bool := b.getLsbD 0

/-- The bit 8XYE shifts out: bit 7 before the shift (R36, R111). -/
def shiftedOutLeft (b : Byte) : Bool := b.getLsbD 7

end Sys2Proof.Machine
end

