-- ==== Sys2Proof/Machine/Operands.lean ====
section
/-! DEFINITION. Operand assembly (R73, R74): the register, immediate, address and implied-offset operands of the
instructions, and the operands a configuration parameter or a `Step` input selects. -/

namespace Sys2Proof.Machine

/-- `zext_16(NNN)` (R74): the 12-bit address as a 16-bit value. -/
def zext16 (nnn : Addr) : Word := nnn.zeroExtend 16

/-- A byte as a 16-bit value (R12: no signed values, so never sign-extended). -/
def byteToWord (b : Byte) : Word := b.zeroExtend 16

/-- The operand `s` of a shift: V[X] or V[Y] by `SHIFT_SOURCE` (R109, R111). -/
def State.shiftOperand (s : State) (x y : Reg) : Byte :=
  match s.cfg.shiftSource with
  | .shiftVX => s.getV x
  | .shiftVY => s.getV y

/-- The register `X = op[11:8]` of the opcode BNNN: the top nibble of the address itself (R84, R148). -/
def topNibbleReg (nnn : Addr) : Reg := (nnn.extractLsb' 8 4).toFin

/-- The register BNNN adds: V0, or VX by `JUMP_OFFSET_REG` (R148). -/
def State.jumpOffsetReg (s : State) (nnn : Addr) : Reg :=
  match s.cfg.jumpOffsetReg with
  | .offsetV0 => 0
  | .offsetVX => topNibbleReg nnn

/-- The jump target of BNNN: the sum is not masked to 12 bits (R148). -/
def State.jumpTarget (s : State) (nnn : Addr) : Word := zext16 nnn + byteToWord (s.getV (s.jumpOffsetReg nnn))

/-- `FONT_BASE + 5 * v` (R232): the value is not masked to 4 bits. -/
def fontAddr (v : Byte) : Word := BitVec.ofNat 16 (fontBase + 5 * v.toNat)

/-- Key `k` is down in this `Step` (R210, R211): a value above 0xF names no key and is not down. -/
def State.keyIsDown (s : State) (k : Byte) : Bool := decide (k.toNat ≤ 0xF) && s.input.keysDown.getLsbD k.toNat

/-- The address I as an unbounded natural number: range checks do not wrap (R12, R53). -/
def State.iAddr (s : State) : Nat := s.i.toNat

/-- The number of registers V0..VX (R73, R234, R235). -/
def regCount (x : Reg) : Nat := x.val + 1

/-- The bytes of V0..VX in order (R234). -/
def State.regBlock (s : State) (x : Reg) : List Byte := s.v.toList.take (regCount x)

/-- V0..VX loaded from consecutive bytes at an address (R235). -/
def State.loadBlock (s : State) (x : Reg) (a : Nat) : State :=
  { s with v := Vector.ofFn fun r : Reg => if r ≤ x then s.readByte (a + r.val) else s.getV r }

/-- The hundreds, tens and ones digits of a byte (R233). -/
def bcdDigits (v : Byte) : List Byte :=
  [BitVec.ofNat 8 (v.toNat / 100), BitVec.ofNat 8 (v.toNat / 10 % 10), BitVec.ofNat 8 (v.toNat % 10)]

/-- `x0`, the start column of a sprite: V[X] mod 64 (R178). -/
def State.startColumn (s : State) (x : Reg) : Nat := (s.getV x).toNat % 64

/-- `y0`, the start row of a sprite: V[Y] mod 32 (R178). -/
def State.startRow (s : State) (y : Reg) : Nat := (s.getV y).toNat % 32

/-- The sprite of DXYN: N consecutive bytes at I (R171, R178). -/
def State.sprite (s : State) (n : Nibble) : List Byte := s.readBytes s.iAddr n.toNat

end Sys2Proof.Machine
end

