-- ==== Sys2Proof/Machine/Control.lean ====
section
/-! DEFINITION. Control flow: spec file 41_control_flow.md. PC is already `a + 2` in the execute phase; a target is not
checked when the transfer executes (R140). -/

namespace Sys2Proof.Machine

/-- The skip of R149: PC moves past one more instruction when the condition holds. -/
def State.skipIf (s : State) (cond : Bool) : State := s.setPc (if cond then s.pc + 2 else s.pc)

/-- `RET` (R141): pops PC; fatal when the stack is empty. -/
def execRet (z : Nibble) (s : State) : Result :=
  match s.stack.getLast? with
  | none => .next (s.raiseFatal .stackUnderflow (encode (.ret z)))
  | some target => .next (s.pop.setPc target)

/-- `JP addr` (R142). -/
def execJp (nnn : Addr) (s : State) : Result := .next (s.setPc (zext16 nnn))

/-- `CALL addr` (R143): pushes the advanced PC; on a full stack fatal or a logged no-op, by `STACK_OVERFLOW_POLICY`. -/
def execCall (nnn : Addr) (s : State) : Result :=
  if s.stackFull then
    match s.cfg.stackOverflowPolicy with
    | .fatal => .next (s.raiseFatal .stackOverflow (encode (.call nnn)))
    | .ignore => .next (s.logDiag .stackOverflowIgnored (encode (.call nnn)))
  else .next ((s.push s.pc).setPc (zext16 nnn))

/-- `SE Vx, byte` (R144). -/
def execSeImm (x : Reg) (nn : Byte) (s : State) : Result := .next (s.skipIf (s.getV x == nn))

/-- `SNE Vx, byte` (R145). -/
def execSneImm (x : Reg) (nn : Byte) (s : State) : Result := .next (s.skipIf (s.getV x != nn))

/-- `SE Vx, Vy` (R146): N is ignored. -/
def execSeReg (x y : Reg) (_n : Nibble) (s : State) : Result := .next (s.skipIf (s.getV x == s.getV y))

/-- `SNE Vx, Vy` (R147): N is ignored. -/
def execSneReg (x y : Reg) (_n : Nibble) (s : State) : Result := .next (s.skipIf (s.getV x != s.getV y))

/-- `JP V0, addr` (R148): the sum is not masked. -/
def execJpV0 (nnn : Addr) (s : State) : Result := .next (s.setPc (s.jumpTarget nnn))

end Sys2Proof.Machine
end

