-- ==== Sys2Proof/Machine/Compositor.lean ====
section
/-! DEFINITION. The sprite compositor: the pure algorithm of R170 to R176 (framebuffer and sprite in, framebuffer and
collision bit out), pixel by pixel in the order of R172, under the three edge policies. -/

namespace Sys2Proof.Machine

/-- The word with the single pixel of column `x` set: bit `63 - x` (R31, R179). -/
def pixelMask (x : Nat) : Row := 1#64 <<< (63 - x)

/-- `fb[y][x]` (R13, R31); unset outside the 64 by 32 pixels, where no rule reads. -/
def getPixel (fb : Framebuffer) (x y : Nat) : Bool :=
  if h : y < 32 then decide (x < 64) && fb[y].getLsbD (63 - x) else false

/-- `fb[y][x] <- p` (R13, R31), for `x < 64` and `y < 32`; nothing outside, where no rule writes. -/
def setPixel (fb : Framebuffer) (x y : Nat) (p : Bool) : Framebuffer :=
  if h : x < 64 ∧ y < 32 then
    fb.set y (if p then fb[y] ||| pixelMask x else fb[y] &&& ~~~pixelMask x) h.2
  else fb

/-- `spritebit(b, k) = (b >> (7 - k)) & 1` (R171): bit 7 is the leftmost pixel. -/
def spriteBit (b : Byte) (k : Nat) : Bool := decide (k < 8) && b.getLsbD (7 - k)

/-- What an edge policy makes of a sprite pixel (R172). -/
inductive Target where
  /-- a target pixel `(px, py)` -/
  | pixel (px py : Nat)
  /-- this pixel is skipped -/
  | skip
  /-- the rest of this row is skipped -/
  | endRow
  /-- a fatal condition -/
  | fatal
deriving DecidableEq, Repr

/-- The target of the sprite pixel at `(x, y)`, the unreduced sums `x0 + k` and `y0 + r` (R173, R174, R175). -/
def spriteTarget (edge : SpriteEdge) (x y : Nat) : Target :=
  match edge with
  | .wrap => .pixel (x % 64) (y % 32)
  | .clip => if x ≤ 63 ∧ y ≤ 31 then .pixel x y else .skip
  | .reference => if y > 31 then .fatal else if x > 63 then .endRow else .pixel x y

/-- The framebuffer and the collision bit `c` during a blit (R172). -/
structure Canvas where
  /-- the framebuffer so far -/
  fb : Framebuffer
  /-- the collision bit so far -/
  collision : Bool
deriving DecidableEq, Repr

/-- One target pixel: XOR with the sprite bit, collision when a set pixel is unset (R172, R176). -/
def plot (c : Canvas) (px py : Nat) (s : Bool) : Canvas where
  fb := setPixel c.fb px py (getPixel c.fb px py ^^ s)
  collision := c.collision || (getPixel c.fb px py && s)

/-- The pixels of one sprite row at the column offsets `ks`, in order (R172); `none` is the fatal condition. -/
def blitRow (edge : SpriteEdge) (b : Byte) (x0 y : Nat) : List Nat → Canvas → Option Canvas
  | [], c => some c
  | k :: ks, c =>
    match spriteTarget edge (x0 + k) y with
    | .pixel px py => blitRow edge b x0 y ks (plot c px py (spriteBit b k))
    | .skip => blitRow edge b x0 y ks c
    | .endRow => some c
    | .fatal => none

/-- The rows of a sprite from row `y` downwards, in order (R172). -/
def blitRows (edge : SpriteEdge) (x0 : Nat) : Nat → List Byte → Canvas → Option Canvas
  | _, [], c => some c
  | y, b :: bs, c =>
    match blitRow edge b x0 y (List.range 8) c with
    | none => none
    | some c' => blitRows edge x0 (y + 1) bs c'

/-- `Blit(fb, spr, x0, y0)` (R172): the new framebuffer and the collision bit, or `none` for `FramebufferFault`. -/
def blit (edge : SpriteEdge) (fb : Framebuffer) (spr : List Byte) (x0 y0 : Nat) : Option Canvas :=
  blitRows edge x0 y0 spr ⟨fb, false⟩

/-- The clear framebuffer (R31, R177). -/
def clearFramebuffer : Framebuffer := Vector.replicate 32 0

end Sys2Proof.Machine
end

