-- ==== Sys2Proof/Machine/Display.lean ====
section
/-! DEFINITION. The display instructions: spec file 42_display.md, rules R177 and R178, over the compositor. -/

namespace Sys2Proof.Machine

/-- `CLS` (R177): every pixel 0, and `Clear` is emitted; the nibble of bits 11:8 is ignored (R78). -/
def execCls (_z : Nibble) (s : State) : Result := .next ((s.setFb clearFramebuffer).emit .clear)

/-- A draw that blits: the new framebuffer, VF the collision bit, and `Present` of the new framebuffer (R178, R179). -/
def State.drawn (s : State) (c : Canvas) : State := ((s.setFb c.fb).setFlag c.collision).emit (.present c.fb)

/-- `DRW Vx, Vy, nibble` (R178): coordinates and sprite are read first; `AddressFault` is checked before the blit, which may
raise `FramebufferFault` (R265). -/
def execDrw (x y : Reg) (n : Nibble) (s : State) : Result :=
  if inRange s.iAddr n.toNat then
    match blit s.cfg.spriteEdge s.fb (s.sprite n) (s.startColumn x) (s.startRow y) with
    | some c => .next (s.drawn c)
    | none => .next (s.raiseFatal .framebufferFault (encode (.drw x y n)))
  else .next (s.raiseFatal .addressFault (encode (.drw x y n)))

end Sys2Proof.Machine
end

