-- ==== Sys2Proof/Machine/Input.lean ====
section
/-! DEFINITION. Key input: spec file 44_input.md. The key skips, the instruction that enters the key wait, and the `Step` of
a waiting core. -/

namespace Sys2Proof.Machine

/-- `SKP Vx` (R211): never blocks. -/
def execSkp (x : Reg) (s : State) : Result := .next (s.skipIf (s.keyIsDown (s.getV x)))

/-- `SKNP Vx` (R212): never blocks. -/
def execSknp (x : Reg) (s : State) : Result := .next (s.skipIf (!s.keyIsDown (s.getV x)))

/-- `LD Vx, K` (R213): enters the key wait; PC stays `a + 2`, and a key event of this step is not taken (R210). -/
def execLdVxK (x : Reg) (s : State) : Result := .next (s.setRun (.awaitingKey x))

/-- A key value as a register's byte (R213, R214). -/
def keyByte (k : Key) : Byte := BitVec.ofNat 8 k.val

/-- A `Step` in `AwaitingKey(x)` (R214): it fetches and executes nothing; a key-down event ends the wait. -/
def State.keyWait (s : State) (x : Reg) : State :=
  match s.input.keyEvent with
  | some k => (s.setV x (keyByte k)).setRun .running
  | none => s

end Sys2Proof.Machine
end

