-- ==== Sys2Proof/Machine/Timers.lean ====
section
/-! DEFINITION. The timer-access instructions (spec file 43_timers.md) and the timer countdown unit's `Tick` (R270 to R274).
-/

namespace Sys2Proof.Machine

/-- `LD Vx, DT` (R200). -/
def execLdVxDt (x : Reg) (s : State) : Result := .next (s.setV x s.dt)

/-- `LD DT, Vx` (R201). -/
def execLdDtVx (x : Reg) (s : State) : Result := .next (s.setDt (s.getV x))

/-- `LD ST, Vx` (R202). The sound-on latch follows at the end of the `Step` (R273), not here. -/
def execLdStVx (x : Reg) (s : State) : Result := .next (s.setSt (s.getV x))

/-- One timer after `k` countdowns, each by 1 and floored at 0 (R30, R270). -/
def countDown (k : Nat) (t : Byte) : Byte := if t = 0 then 0 else BitVec.ofNat 8 (t.toNat - k)

/-- Whether a `Tick` counts (R270, R271, R272): in `Running`; in `AwaitingKey` by `TIMERS_RUN_IN_KEYWAIT`; never in
`Halted`. -/
def State.timersRun (s : State) : Bool :=
  match s.run with
  | .running => true
  | .awaitingKey _ => s.cfg.timersRunInKeywait
  | .halted _ _ _ => false

/-- `k` commands `Tick` in a row (R270 to R272): the timers alone change, never PC, `sound_on` or the framebuffer. -/
def State.tickBy (k : Nat) (s : State) : State :=
  if s.timersRun then (s.setDt (countDown k s.dt)).setSt (countDown k s.st) else s

end Sys2Proof.Machine
end

