-- ==== Sys2Proof/Machine/Transfer.lean ====
section
/-! DEFINITION. The index register and memory transfers: spec file 45_memory_transfer.md. Every access is range-checked
before the first write (R53), and I is left as it was (R236). -/

namespace Sys2Proof.Machine

/-- `LD I, addr` (R230). -/
def execLdI (nnn : Addr) (s : State) : Result := .next (s.setI (zext16 nnn))

/-- `ADD I, Vx` (R231): modulo 65536, no flag. -/
def execAddI (x : Reg) (s : State) : Result := .next (s.setI (s.i + byteToWord (s.getV x)))

/-- `LD F, Vx` (R232). -/
def execLdF (x : Reg) (s : State) : Result := .next (s.setI (fontAddr (s.getV x)))

/-- `LD B, Vx` (R233): three digits at I, I + 1, I + 2. -/
def execLdB (x : Reg) (s : State) : Result :=
  if inRange s.iAddr 3 then .next (s.storeBytes s.iAddr (bcdDigits (s.getV x)))
  else .next (s.raiseFatal .addressFault (encode (.ldB x)))

/-- `LD [I], Vx` (R234): V0..VX to memory from I. -/
def execStoreRegs (x : Reg) (s : State) : Result :=
  if inRange s.iAddr (regCount x) then .next (s.storeBytes s.iAddr (s.regBlock x))
  else .next (s.raiseFatal .addressFault (encode (.storeRegs x)))

/-- `LD Vx, [I]` (R235): V0..VX from memory from I. -/
def execLoadRegs (x : Reg) (s : State) : Result :=
  if inRange s.iAddr (regCount x) then .next (s.loadBlock x s.iAddr)
  else .next (s.raiseFatal .addressFault (encode (.loadRegs x)))

end Sys2Proof.Machine
end

