-- ==== Sys2Proof/Machine/Commands.lean ====
section
/-! DEFINITION. The four commands of the block (R280 to R284) over one state, and what the host gives when no script says
otherwise. `Step` (R282) is here with its fetch (R72), the key wait (R214), the unknown opcode (R262) and the sound-on latch
(R273); `Tick` is `State.tickBy 1`. -/

namespace Sys2Proof.Machine

/-- The execute phase of an unknown opcode (R262): a diagnostic, no other change, PC stays `a + 2`. -/
def State.unknownOpcode (s : State) (op : Word) : State := s.logDiag .unknownOpcode op

/-- The execute phase of the fetched opcode: the decoded instruction's meaning, or the unknown opcode (R72, R83, R262). -/
def execOpcode (op : Word) (s : State) : Result :=
  match decodeWord op with
  | .ok i => exec i s
  | .error _ => .next (s.unknownOpcode op)

/-- A `Step` in `Running` (R72): a fetch outside memory is fatal; else PC advances and one opcode executes. -/
def State.fetchAndExecute (s : State) : Result :=
  if s.canFetch then execOpcode s.fetchWord s.advancePc else .next s.raiseFetchFault

/-- The sound-on latch at the end of a `Step` that raised no fatal condition (R273, R282); in `Halted` it keeps its value
(R263, R264; log entry 10). -/
def State.latchSound (s : State) : State :=
  if s.run.isHalted then s else { s with soundOn := decide (s.st ≠ 0) }

/-- The start of a `Step`: its inputs are latched, the output of the command before is gone, and no `Load` may come any more
(R20, R40, R302). -/
def State.beginStep (s : State) (input : StepInput) : State :=
  { s with input := input, out := none, loadable := false }

/-- The end of a `Step`: the sound-on latch, and the input latch is idle again (R20, R273). -/
def State.endStep (s : State) : State := { s.latchSound with input := .idle }

/-- The end of a `Step` on an outcome: a fault or a refusal passes through. -/
def endStepOutcome : Result → Result
  | .next s => .next s.endStep
  | .fault r => .fault r
  | .refused r => .refused r

/-- The command `Step(keys_down, key_event, rnd)` (R282): by the run state. In `Halted` nothing changes and nothing is
emitted (R264). -/
def doStep (input : StepInput) (s : State) : Result :=
  match s.run with
  | .halted _ _ _ => .next { s with out := none }
  | .awaitingKey x => endStepOutcome (.next ((s.beginStep input).keyWait x))
  | .running => endStepOutcome (s.beginStep input).fetchAndExecute

/-- The command `Tick` (R270 to R272): it emits nothing. -/
def doTick (s : State) : Result := .next { s.tickBy 1 with out := none }

/-- The command `Reset` (R300), accepted in every state: every element of R20 gets the value of R39 and nothing is emitted.
The configuration (R10), the host's waiting commands and the count of draws stay (log entry 13). -/
def doReset (s : State) : Result :=
  .next { State.resetOf s.cfg with pending := s.pending, draws := s.draws }

/-- The command `Load(rom)` (R302): refused unless it comes once, after `Reset` and before the first `Step`; an oversize ROM
is fatal and writes no memory; any other is copied to 0x200 upwards. -/
def doLoad (rom : List Byte) (s : State) : Result :=
  if s.loadable then
    if romFits rom then .next (({ s with out := none, loadable := false } : State).storeBytes progBase rom)
    else .next (({ s with loadable := false } : State).halt .oversizedRom (BitVec.ofNat 16 progBase) none)
  else .refused .loadOutOfOrder

/-- One command of the host (R280). -/
def doCommand : Command → State → Result
  | .reset, s => doReset s
  | .load rom, s => doLoad rom s
  | .step input, s => doStep input s
  | .tick, s => doTick s

/-- The inputs of the `n`th `Step` that no script gives: FREE VALUES (R40; log entry 2). -/
def freeInput (n : Nat) : StepInput := ⟨Config.freeKeysDown n, Config.freeKeyEvent n, Config.freeRnd n⟩

/-- The state in which an unscripted `Step` runs: the host has issued a free number of `Tick` commands before it (R281; log
entry 3), and one more draw is counted (log entry 2). -/
def State.unscripted (s : State) : State := { s.tickBy (Config.freeTicks s.draws) with draws := s.draws + 1 }

/-- One turn of the machine. The host's waiting commands come first, one a turn (R281). When none waits, the host issues
`Tick`s and a `Step` of its own choice (R304); a halted machine for which no command waits is a fault (R264; log entry 6). -/
def turn (s : State) : Result :=
  match s.pending with
  | c :: cs => doCommand c { s with pending := cs }
  | [] =>
    match s.run with
    | .halted c a op => .fault (.halted c a op)
    | .running | .awaitingKey _ => doStep (freeInput s.draws) s.unscripted

/-! ### Placing an opcode where the next step fetches it -/

/-- The waiting commands, if the next one is a `Step`; else none, so that the next turn is an unscripted `Step`. -/
def stepFirst : List Command → List Command
  | .step input :: cs => .step input :: cs
  | _ => []

/-- The state with an opcode stored at PC, high byte first (R54), in `Running`, the next command a `Step`: at a PC from
which nothing can be fetched, the PC is 0x200 (log entry 12). -/
def State.placeOpcode (s : State) (op : Word) : State :=
  let pc := if s.canFetch then s.pc else BitVec.ofNat 16 progBase
  { s.storeBytes pc.toNat [highByte op, lowByte op] with pc := pc, run := .running, pending := stepFirst s.pending }

end Sys2Proof.Machine
end

