-- ==== Sys2Proof/Machine/Devices.lean ====
section
/-! DEFINITION. What the platform devices see of the block's outputs (R179, R273, R285, R286, R313). The devices never write
back (R64). -/

namespace Sys2Proof.Machine

/-- What the audio device accepts (R286). -/
inductive AudioCommand where
  /-- the continuous tone starts -/
  | start
  /-- the tone stops -/
  | stop
deriving DecidableEq, Repr

/-- The audio command of a change of `sound_on` between two states (R273). -/
def audioCommand (before after : State) : Option AudioCommand :=
  match before.soundOn, after.soundOn with
  | false, true => some .start
  | true, false => some .stop
  | false, false | true, true => none

/-- The 32 words of 64 bits that `Present` carries: word `y` for row `y`, bit `63 - x` its pixel `x` (R179). -/
def presentWords (fb : Framebuffer) : List Row := fb.toList

/-- The frame the presentation device shows after a state's output event: a `Present` shows its snapshot, a `Clear` a blank
frame, anything else leaves the frame shown before (R285, R313). -/
def shownFrame (before : Framebuffer) (s : State) : Framebuffer :=
  match s.out with
  | some (.present fb) => fb
  | some .clear => clearFramebuffer
  | some (.diag _ _ _) | some (.fatal _ _ _) | none => before

end Sys2Proof.Machine
end

