-- ==== Sys2Proof/Machine/Step.lean ====
section
/-! DEFINITION. One step of the machine, and the state whose next step fetches a given opcode. Everything they do is in
Machine/Commands.lean. -/

namespace Sys2Proof.Machine

/-- One step: the next command of the host (R280 to R282). -/
def step (s : State) : Host.Outcome State Fault Refusal := turn s

/-- The state with the opcode-table word `w` of `nbits` bits placed where the next step fetches it (log entry 12). -/
def State.withFetchWord (s : State) (nbits w : Nat) : State := s.placeOpcode (BitVec.ofNat 16 (w % 2 ^ nbits))

end Sys2Proof.Machine
end

