-- ==== Sys2Proof/Safety.lean ====
section
/-! DEFINITION. The terms the claims are stated in: the halted state, runs, the invariant of every reachable state, the
frames of the instructions, and which instruction may write which element of the state. -/

namespace Sys2Proof.Machine

/-! ### Halted states and runs -/

/-- A fatal condition has halted the machine (R29). R264: a halted state is a fault, never a normal end of a run. -/
abbrev State.isHalted (s : State) : Bool := s.run.isHalted

/-- `k` steps, stopping at the first fault or refusal. -/
def run : Nat → State → Result
  | 0, s => .next s
  | k + 1, s =>
    match step s with
    | .next t => run k t
    | .fault r => .fault r
    | .refused r => .refused r

/-- A safe run of `k` steps: it meets no fault and no refusal, and it does not end halted (R264). -/
def SafeRun (k : Nat) (s : State) : Prop := ∃ t, run k s = .next t ∧ t.isHalted = false

/-- What a command writes beside its effect on the elements of R20: the output slot. -/
abbrev State.quiet (s : State) : State := { s with out := none }

/-! ### The invariant -/

/-- The call stack holds at most `STACK_DEPTH` entries (R20, R28). -/
def State.stackBounded (s : State) : Prop :=
  match s.cfg.stackDepth with
  | .unbounded => True
  | .bounded n => s.stack.length ≤ n

/-- What every reachable state satisfies. -/
structure State.Inv (s : State) : Prop where
  /-- memory has its canonical form (log entry 8) -/
  memory : Memory.wf (resetByte s.cfg) s.mem
  /-- the stack keeps its bound (R20, R28) -/
  stack : s.stackBounded
  /-- every return address is at most 0x1000 (R26) -/
  returns : ∀ r ∈ s.stack, r.toNat ≤ 0x1000
  /-- PC is at most 0x10FE, so no PC arithmetic wraps (R26) -/
  pc : s.pc.toNat ≤ 0x10FE
  /-- the input latch is idle between commands (log entry 5) -/
  input : s.input = .idle
  /-- while a `Load` may still come, the state is the one after `Reset` (R302, R304; log entry 7) -/
  fresh : s.loadable = true → s = { State.resetOf s.cfg with pending := s.pending, draws := s.draws }

/-! ### Frames: what an instruction leaves as it was -/

/-- Every byte of memory reads as before. -/
def SameMemory (s t : State) : Prop := ∀ a, t.readByte a = s.readByte a

/-- Every byte of memory outside the `n` bytes from `a` reads as before. -/
def SameMemoryOutside (s t : State) (a n : Nat) : Prop := ∀ k, (k < a ∨ a + n ≤ k) → t.readByte k = s.readByte k

/-- Every general register but those of `rs` is as before. -/
def SameRegsBut (s t : State) (rs : List Reg) : Prop := ∀ r, r ∉ rs → t.getV r = s.getV r

/-- From `s` to `t` only the general registers `rs` may differ: not PC, I, the stack, the timers, the framebuffer, the run
state, the sound latch, the output, memory, or any field of the model's own. -/
def OnlyRegs (s t : State) (rs : List Reg) : Prop := t = { s with v := t.v } ∧ SameRegsBut s t rs ∧ SameMemory s t

/-- From `s` to `t` only PC may differ. -/
def OnlyPc (s t : State) : Prop := t = { s with pc := t.pc } ∧ SameRegsBut s t [] ∧ SameMemory s t

/-- From `s` to `t` only I may differ. -/
def OnlyI (s t : State) : Prop := t = { s with i := t.i } ∧ SameRegsBut s t [] ∧ SameMemory s t

/-- From `s` to `t` only the `n` bytes of memory from address `a` may differ. -/
def OnlyMemory (s t : State) (a n : Nat) : Prop :=
  t = { s with mem := t.mem } ∧ SameRegsBut s t [] ∧ SameMemoryOutside s t a n

/-- The state a fatal condition leaves (R263): `s` is the state in which the execute phase starts, PC being `a + 2`. -/
def FatalEntry (s t : State) (c : Cause) (op : Word) : Prop :=
  t = { s with
    pc := s.pc - 2, run := .halted c (s.pc - 2) (some op), out := some (.fatal c (s.pc - 2) (some op)) } ∧
  SameRegsBut s t [] ∧ SameMemory s t

end Sys2Proof.Machine

namespace Sys2Proof

/-! ### Who may write what (R23, R25, R28, R31, R51)

A wildcard answers `false` below: an instruction that is not named is claimed to write (read, raise) nothing, which is the
stronger claim. -/

/-- The general registers an instruction may write in its execute phase, result and flag (R23). FX0A writes VX only on
completion of the wait (R214). -/
def Instr.regsWritten : Instr → List Reg
  | .ldImm x _ | .addImm x _ | .ldReg x _ | .orReg x _ | .andReg x _ | .xorReg x _ | .rnd x _ | .ldVxDt x => [x]
  | .addReg x _ | .subReg x _ | .shr x _ | .subn x _ | .shl x _ => [x, 15]
  | .drw _ _ _ => [15]
  | .loadRegs x => (List.finRange 16).filter fun r => r ≤ x
  | .cls _ | .ret _ | .jp _ | .call _ | .seImm _ _ | .sneImm _ _ | .seReg _ _ _ | .sneReg _ _ _ | .ldI _ | .jpV0 _
  | .skp _ | .sknp _ | .ldVxK _ | .ldDtVx _ | .ldStVx _ | .addI _ | .ldF _ | .ldB _ | .storeRegs _ => []

/-- The instructions that write memory: FX33 and FX55 (R51). -/
def Instr.storesToMemory : Instr → Bool
  | .ldB _ | .storeRegs _ => true
  | _ => false

/-- The instructions that write the framebuffer: 00E0 and DXYN (R31). -/
def Instr.drawsToDisplay : Instr → Bool
  | .cls _ | .drw _ _ _ => true
  | _ => false

/-- The instructions that push or pop the call stack: 2NNN and 00EE (R28). -/
def Instr.touchesStack : Instr → Bool
  | .call _ | .ret _ => true
  | _ => false

/-- The instructions that write I: ANNN, FX1E, FX29 (R27). -/
def Instr.writesI : Instr → Bool
  | .ldI _ | .addI _ | .ldF _ => true
  | _ => false

/-- The instructions that may leave PC elsewhere than at `a + 2` when no fatal condition is raised (R25). -/
def Instr.writesPc : Instr → Bool
  | .ret _ | .jp _ | .call _ | .seImm _ _ | .sneImm _ _ | .seReg _ _ _ | .sneReg _ _ _ | .jpV0 _ | .skp _ | .sknp _ => true
  | _ => false

/-- The instructions that may raise a fatal condition in their execute phase (R260). -/
def Instr.mayBeFatal : Instr → Bool
  | .ret _ | .call _ | .drw _ _ _ | .ldB _ | .storeRegs _ | .loadRegs _ => true
  | _ => false

/-- The instructions that read the key levels of the `Step`: EX9E and EXA1 (R283). -/
def Instr.readsKeys : Instr → Bool
  | .skp _ | .sknp _ => true
  | _ => false

/-- The instruction that reads the random byte of the `Step`: CXNN (R283). -/
def Instr.readsRnd : Instr → Bool
  | .rnd _ _ => true
  | _ => false

end Sys2Proof

namespace Sys2Proof.Machine

/-! ### The sprite as a picture (R171 to R176) -/

/-- The sprite bit that lands on the pixel `(px, py)` when the sprite `spr` is drawn at `(x0, y0)`: under `Wrap` the
offsets are taken modulo 64 and 32, under `Clip` and `Reference` the sprite does not reach round (R171, R173 to R175). -/
def spritePixel (edge : SpriteEdge) (spr : List Byte) (x0 y0 px py : Nat) : Bool :=
  match edge with
  | .wrap => spriteBit (spr.getD ((py + 32 - y0) % 32) 0) ((px + 64 - x0) % 64)
  | .clip | .reference =>
    decide (x0 ≤ px ∧ y0 ≤ py) && spriteBit (spr.getD (py - y0) 0) (px - x0)

/-- Some set pixel of the framebuffer is met by a set sprite pixel: the collision of R176. -/
def Collides (edge : SpriteEdge) (fb : Framebuffer) (spr : List Byte) (x0 y0 : Nat) : Prop :=
  ∃ px py, px < 64 ∧ py < 32 ∧ getPixel fb px py = true ∧ spritePixel edge spr x0 y0 px py = true

end Sys2Proof.Machine
end

