-- ==== Sys2Proof/Certificates/Slice0/Obligations.lean ====
section
/-! DEFINITION. The statements for the provers, one `def Obligations.<Name> : Prop` each; OBLIGATIONS.json lists them with the
rules they formalise. In a statement about `exec i s`, `s` is the state in which the execute phase starts: PC is already
`a + 2` (R16, R72), so the instruction's address `a` is `s.pc - 2`. A statement about a state of any kind holds in every state,
whatever its configuration, its run state and its input latch: no value of a free value is assumed anywhere. -/

open Sys2Proof Sys2Proof.Machine

/-! ### Arithmetic and logic -/

/-- R101: `V[X] <- NN`, nothing else changes. -/
def Obligations.LoadImmediateSetsVx : Prop :=
  ∀ (x : Reg) (nn : Byte) (s : State),
    ∃ t, exec (.ldImm x nn) s = .next t ∧ t.getV x = nn ∧ OnlyRegs s t [x]

/-- R102: `V[X] <- (V[X] + NN) mod 256`. That VF keeps its value when X is not F is the spec's decision D15 (sentence "VF is
not written, even on a carry out"). -/
def Obligations.AddImmediateWrapsWithoutFlag : Prop :=
  ∀ (x : Reg) (nn : Byte) (s : State),
    ∃ t, exec (.addImm x nn) s = .next t ∧ (t.getV x).toNat = ((s.getV x).toNat + nn.toNat) % 256 ∧ OnlyRegs s t [x]

/-- R103: `V[X] <- V[Y]`, nothing else changes. -/
def Obligations.CopyRegisterSetsVx : Prop :=
  ∀ (x y : Reg) (s : State),
    ∃ t, exec (.ldReg x y) s = .next t ∧ t.getV x = s.getV y ∧ OnlyRegs s t [x]

/-- R104, R105, R106: OR, AND, XOR bit by bit. That VF keeps its value when X is not F is the spec's decision D15. -/
def Obligations.LogicOpsCombineBitByBit : Prop :=
  ∀ (x y : Reg) (s : State),
    (∃ t, exec (.orReg x y) s = .next t ∧ OnlyRegs s t [x] ∧
      ∀ k < 8, (t.getV x).getLsbD k = ((s.getV x).getLsbD k || (s.getV y).getLsbD k)) ∧
    (∃ t, exec (.andReg x y) s = .next t ∧ OnlyRegs s t [x] ∧
      ∀ k < 8, (t.getV x).getLsbD k = ((s.getV x).getLsbD k && (s.getV y).getLsbD k)) ∧
    (∃ t, exec (.xorReg x y) s = .next t ∧ OnlyRegs s t [x] ∧
      ∀ k < 8, (t.getV x).getLsbD k = ((s.getV x).getLsbD k ^^ (s.getV y).getLsbD k))

/-- R107: the sum modulo 256, VF the carry; with X = F the carry is what VF holds. -/
def Obligations.AddRegistersSetsCarry : Prop :=
  ∀ (x y : Reg) (s : State),
    ∃ t, exec (.addReg x y) s = .next t ∧
      t.getV 15 = (if (s.getV x).toNat + (s.getV y).toNat > 255 then 1 else 0) ∧
      (x ≠ 15 → (t.getV x).toNat = ((s.getV x).toNat + (s.getV y).toNat) % 256) ∧
      OnlyRegs s t [x, 15]

/-- R108, R110: both subtractions modulo 256, VF = 1 iff no borrow; with X = F the flag is what VF holds. -/
def Obligations.SubtractionsSetNotBorrow : Prop :=
  ∀ (x y : Reg) (s : State),
    (∃ t, exec (.subReg x y) s = .next t ∧
      t.getV 15 = (if (s.getV x).toNat ≥ (s.getV y).toNat then 1 else 0) ∧
      (x ≠ 15 → (t.getV x).toNat = ((s.getV x).toNat + 256 - (s.getV y).toNat) % 256) ∧ OnlyRegs s t [x, 15]) ∧
    (∃ t, exec (.subn x y) s = .next t ∧
      t.getV 15 = (if (s.getV y).toNat ≥ (s.getV x).toNat then 1 else 0) ∧
      (x ≠ 15 → (t.getV x).toNat = ((s.getV y).toNat + 256 - (s.getV x).toNat) % 256) ∧ OnlyRegs s t [x, 15])

/-- R109, R111: the shifts under either `SHIFT_SOURCE`; VF is the bit shifted out, also with X = F; V[Y] is not written
unless Y is X or F. -/
def Obligations.ShiftsMoveOneBitIntoVf : Prop :=
  ∀ (x y : Reg) (s : State) (b : Byte),
    (s.cfg.shiftSource = .shiftVX → b = s.getV x) → (s.cfg.shiftSource = .shiftVY → b = s.getV y) →
    (∃ t, exec (.shr x y) s = .next t ∧ (t.getV 15).toNat = b.toNat % 2 ∧
      (x ≠ 15 → (t.getV x).toNat = b.toNat / 2) ∧ OnlyRegs s t [x, 15]) ∧
    (∃ t, exec (.shl x y) s = .next t ∧ (t.getV 15).toNat = b.toNat / 128 ∧
      (x ≠ 15 → (t.getV x).toNat = b.toNat * 2 % 256) ∧ OnlyRegs s t [x, 15])

/-- R120: the random byte of the step, masked; the byte is an input under no law, so this is for every byte it may be. The
instruction and its free input are the spec's decision D17. -/
def Obligations.RandomByteIsMasked : Prop :=
  ∀ (x : Reg) (nn : Byte) (s : State),
    ∃ t, exec (.rnd x nn) s = .next t ∧ OnlyRegs s t [x] ∧
      ∀ k < 8, (t.getV x).getLsbD k = (s.input.rnd.getLsbD k && nn.getLsbD k)

/-! ### Control flow -/

/-- R141: RET pops PC from the top of the stack; with an empty stack it is fatal, `StackUnderflow`. -/
def Obligations.ReturnPopsOrUnderflows : Prop :=
  ∀ (z : Nibble) (s : State),
    (∀ rest target, s.stack = rest ++ [target] →
      exec (.ret z) s = .next { s with stack := rest, pc := target }) ∧
    (s.stack = [] → ∃ t, exec (.ret z) s = .next t ∧ FatalEntry s t .stackUnderflow (encode (.ret z)))

/-- R142: PC is the 12-bit address, nothing else changes. -/
def Obligations.JumpSetsPcToAddress : Prop :=
  ∀ (nnn : Addr) (s : State),
    ∃ t, exec (.jp nnn) s = .next t ∧ t.pc.toNat = nnn.toNat ∧ OnlyPc s t

/-- R143, a stack with room: the advanced PC is pushed and PC is the address. The bound itself is the spec's decision D9. -/
def Obligations.CallPushesReturnAddress : Prop :=
  ∀ (nnn : Addr) (s : State),
    (∀ n, s.cfg.stackDepth = .bounded n → s.stack.length ≠ n) →
    ∃ t, exec (.call nnn) s = .next t ∧ t.pc.toNat = nnn.toNat ∧ t.stack = s.stack ++ [s.pc] ∧
      t = { s with pc := t.pc, stack := t.stack } ∧ SameRegsBut s t [] ∧ SameMemory s t

/-- R143, a full stack: fatal under the policy `Fatal`; under `Ignore` a diagnostic and nothing else, PC staying `a + 2`.
The two policies and the bound are the spec's decision D9. -/
def Obligations.CallOnFullStackFollowsPolicy : Prop :=
  ∀ (nnn : Addr) (s : State) (n : Nat),
    s.cfg.stackDepth = .bounded n → s.stack.length = n →
    (s.cfg.stackOverflowPolicy = .fatal →
      ∃ t, exec (.call nnn) s = .next t ∧ FatalEntry s t .stackOverflow (encode (.call nnn))) ∧
    (s.cfg.stackOverflowPolicy = .ignore →
      exec (.call nnn) s =
        .next { s with out := some (.diag .stackOverflowIgnored (s.pc - 2) (encode (.call nnn))) })

/-- R141, R143: a call followed by a return comes back to the address after the call, with the stack as before (W10). `u` is
any state that still has the stack the call left. -/
def Obligations.CallThenReturnComesBack : Prop :=
  ∀ (nnn : Addr) (z : Nibble) (s : State),
    (∀ n, s.cfg.stackDepth = .bounded n → s.stack.length ≠ n) →
    ∃ t, exec (.call nnn) s = .next t ∧
      ∀ u : State, u.stack = t.stack → ∃ w, exec (.ret z) u = .next w ∧ w.pc = s.pc ∧ w.stack = s.stack

/-- R144, R145: the skips on a register and an immediate: PC moves past one more instruction, 2 bytes, or not at all. -/
def Obligations.ImmediateSkipsMovePcByTwo : Prop :=
  ∀ (x : Reg) (nn : Byte) (s : State),
    (∃ t, exec (.seImm x nn) s = .next t ∧ t.pc = (if s.getV x = nn then s.pc + 2 else s.pc) ∧ OnlyPc s t) ∧
    (∃ t, exec (.sneImm x nn) s = .next t ∧ t.pc = (if s.getV x ≠ nn then s.pc + 2 else s.pc) ∧ OnlyPc s t)

/-- R146, R147: the skips on two registers. That N is ignored is the spec's decision D6: the statement is for every N. -/
def Obligations.RegisterSkipsIgnoreLowNibble : Prop :=
  ∀ (x y : Reg) (n : Nibble) (s : State),
    (∃ t, exec (.seReg x y n) s = .next t ∧ t.pc = (if s.getV x = s.getV y then s.pc + 2 else s.pc) ∧ OnlyPc s t) ∧
    (∃ t, exec (.sneReg x y n) s = .next t ∧ t.pc = (if s.getV x ≠ s.getV y then s.pc + 2 else s.pc) ∧ OnlyPc s t)

/-- R148: the jump with offset, unmasked, under either `JUMP_OFFSET_REG`; `r` is V0's number, or the top nibble of the
address. The instruction and the missing mask are the spec's decision D8. -/
def Obligations.OffsetJumpAddsUnmasked : Prop :=
  ∀ (nnn : Addr) (s : State) (r : Reg),
    (s.cfg.jumpOffsetReg = .offsetV0 → r = 0) → (s.cfg.jumpOffsetReg = .offsetVX → r.val = nnn.toNat / 256) →
    ∃ t, exec (.jpV0 nnn) s = .next t ∧ t.pc.toNat = nnn.toNat + (s.getV r).toNat ∧ OnlyPc s t

/-! ### Display -/

/-- R177: every pixel is 0 and `Clear` is emitted; VF and everything else is as before. -/
def Obligations.ClearScreenUnsetsEveryPixel : Prop :=
  ∀ (z : Nibble) (s : State),
    ∃ t, exec (.cls z) s = .next t ∧ (∀ px py, px < 64 → py < 32 → getPixel t.fb px py = false) ∧
      t.out = some .clear ∧ t = { s with fb := t.fb, out := t.out } ∧ SameRegsBut s t [] ∧ SameMemory s t

/-- R172, R176: a blit that completes XORs every pixel of the frame with the sprite bit that lands on it, and its collision
bit says whether a set pixel met a set sprite bit, under each edge policy. Which bit lands on a pixel is `spritePixel`; that bit
7 is leftmost is the spec's decision D38. -/
def Obligations.BlitXorsThePicture : Prop :=
  ∀ (edge : SpriteEdge) (fb : Framebuffer) (spr : List Byte) (x0 y0 : Nat) (c : Canvas),
    x0 < 64 → y0 < 32 → spr.length ≤ 15 → blit edge fb spr x0 y0 = some c →
    (∀ px py, px < 64 → py < 32 →
      getPixel c.fb px py = (getPixel fb px py ^^ spritePixel edge spr x0 y0 px py)) ∧
    (c.collision = true ↔ Collides edge fb spr x0 y0)

/-- R173, R174, R175: a blit is fatal exactly under `Reference`, when the sprite reaches past row 31. The policies are the
spec's decision D10. -/
def Obligations.BlitFailsOnlyPastLastRow : Prop :=
  ∀ (edge : SpriteEdge) (fb : Framebuffer) (spr : List Byte) (x0 y0 : Nat),
    x0 < 64 → y0 < 32 → spr.length ≤ 15 →
    (blit edge fb spr x0 y0 = none ↔ edge = .reference ∧ spr ≠ [] ∧ y0 + spr.length > 32)

/-- R178: a draw inside memory (and, under `Reference`, inside the frame) XORs the sprite at I into the frame at
(VX mod 64, VY mod 32), leaves the collision in VF, presents the new frame, and changes nothing else: I, PC and memory are as
before. The coordinates are the old values of VX and VY also when X or Y is F: the spec's decision D11. -/
def Obligations.DrawXorsSpriteAndSetsCollision : Prop :=
  ∀ (x y : Reg) (n : Nibble) (s : State) (spr : List Byte) (x0 y0 : Nat),
    n.toNat = 0 ∨ s.i.toNat + n.toNat ≤ 4096 →
    spr = (List.range n.toNat).map (fun r => s.readByte (s.i.toNat + r)) →
    x0 = (s.getV x).toNat % 64 → y0 = (s.getV y).toNat % 32 →
    (s.cfg.spriteEdge = .reference → y0 + n.toNat ≤ 32) →
    ∃ t, exec (.drw x y n) s = .next t ∧
      (∀ px py, px < 64 → py < 32 →
        getPixel t.fb px py = (getPixel s.fb px py ^^ spritePixel s.cfg.spriteEdge spr x0 y0 px py)) ∧
      (Collides s.cfg.spriteEdge s.fb spr x0 y0 → t.getV 15 = 1) ∧
      (¬ Collides s.cfg.spriteEdge s.fb spr x0 y0 → t.getV 15 = 0) ∧
      t.out = some (.present t.fb) ∧
      t = { s with fb := t.fb, v := t.v, out := t.out } ∧ SameRegsBut s t [15] ∧ SameMemory s t

/-- R178, R265: where a draw is fatal: `AddressFault` when the sprite reaches past 0xFFF, whatever the edge policy; else
`FramebufferFault` under `Reference` past row 31. The faults are the spec's decisions D4, D10 and D28. -/
def Obligations.DrawFaultsOutsideMemoryOrFrame : Prop :=
  ∀ (x y : Reg) (n : Nibble) (s : State), 1 ≤ n.toNat →
    (s.i.toNat + n.toNat > 4096 →
      ∃ t, exec (.drw x y n) s = .next t ∧ FatalEntry s t .addressFault (encode (.drw x y n))) ∧
    (s.i.toNat + n.toNat ≤ 4096 → s.cfg.spriteEdge = .reference → (s.getV y).toNat % 32 + n.toNat > 32 →
      ∃ t, exec (.drw x y n) s = .next t ∧ FatalEntry s t .framebufferFault (encode (.drw x y n)))

/-- R178 (W5): drawing the same sprite at the same place twice restores the frame, under every edge policy. The second draw
sets VF = 1 iff some set sprite pixel inside the frame met an unset pixel of the frame before the first draw: where the first
draw met no set pixel, that is the spec's "iff the sprite had a set pixel inside the frame" (log entry 18: without that premise
the sentence contradicts R172 and R176, which the model follows). X and Y are not F, since VF changes between the draws. -/
def Obligations.DrawTwiceRestoresTheFrame : Prop :=
  ∀ (x y : Reg) (n : Nibble) (s : State) (spr : List Byte) (x0 y0 : Nat),
    x ≠ 15 → y ≠ 15 →
    n.toNat = 0 ∨ s.i.toNat + n.toNat ≤ 4096 →
    spr = (List.range n.toNat).map (fun r => s.readByte (s.i.toNat + r)) →
    x0 = (s.getV x).toNat % 64 → y0 = (s.getV y).toNat % 32 →
    (s.cfg.spriteEdge = .reference → y0 + n.toNat ≤ 32) →
    ∃ t u, exec (.drw x y n) s = .next t ∧ exec (.drw x y n) t = .next u ∧ u.fb = s.fb ∧
      (u.getV 15 = 1 ↔ ∃ px py, px < 64 ∧ py < 32 ∧ getPixel s.fb px py = false ∧
        spritePixel s.cfg.spriteEdge spr x0 y0 px py = true)

/-- R179: `Present` carries 32 words, word `y` for row `y`, bit `63 - x` the pixel of column `x`: the spec's decision D23. -/
def Obligations.PresentWordsHoldThePixels : Prop :=
  ∀ fb : Framebuffer, (presentWords fb).length = 32 ∧
    ∀ x y, x < 64 → y < 32 → ((presentWords fb).getD y 0).getLsbD (63 - x) = getPixel fb x y

/-! ### Timers and sound -/

/-- R200, R201, R202: the timer accesses; none of them counts a timer, and FX18 leaves `sound_on` to the end of the step. -/
def Obligations.TimerAccessesCopyOneByte : Prop :=
  ∀ (x : Reg) (s : State),
    (∃ t, exec (.ldVxDt x) s = .next t ∧ t.getV x = s.dt ∧ OnlyRegs s t [x]) ∧
    (∃ t, exec (.ldDtVx x) s = .next t ∧ t.dt = s.getV x ∧ t = { s with dt := t.dt } ∧
      SameRegsBut s t [] ∧ SameMemory s t) ∧
    (∃ t, exec (.ldStVx x) s = .next t ∧ t.st = s.getV x ∧ t = { s with st := t.st } ∧
      SameRegsBut s t [] ∧ SameMemory s t)

/-- R270, R271, R272: a `Tick` counts both timers down by 1, floored at 0, in `Running`, and in `AwaitingKey` when
`TIMERS_RUN_IN_KEYWAIT` is set; else it leaves them. It changes nothing else: not PC, not `sound_on`, not the frame. The
setting is the spec's decision D19. -/
def Obligations.TickCountsTimersDown : Prop :=
  ∀ s : State, ∃ t, doCommand .tick s = .next t ∧ t = { s with dt := t.dt, st := t.st, out := none } ∧
    ((s.run = .running ∨ (∃ x, s.run = .awaitingKey x) ∧ s.cfg.timersRunInKeywait = true) →
      t.dt.toNat = s.dt.toNat - 1 ∧ t.st.toNat = s.st.toNat - 1) ∧
    ((∃ x, s.run = .awaitingKey x) ∧ s.cfg.timersRunInKeywait = false ∨ s.isHalted = true →
      t.dt = s.dt ∧ t.st = s.st)

/-- R270, R281: `k` ticks at once, as the model takes the host's free ticks, are `k` commands `Tick` one after another. -/
def Obligations.HostTicksAreRepeatedTicks : Prop :=
  ∀ (k : Nat) (s : State), s.tickBy k = (fun u : State => u.tickBy 1)^[k] s

/-- R273, R263, R264: a `Step` that raises no fatal condition leaves `sound_on` as ST != 0, in `Running` and in
`AwaitingKey`; a `Step` that raises one leaves it as it was. The latch is the spec's decision D20. That a `Step` in `Halted`
leaves it too is the model's reading (log entry 10, DEDUCED: R264 and R273 against the last line of R282 read alone). -/
def Obligations.SoundLatchFollowsStAtStepEnd : Prop :=
  ∀ (input : StepInput) (s t : State), doCommand (.step input) s = .next t →
    (t.isHalted = false → t.soundOn = decide (t.st ≠ 0)) ∧ (t.isHalted = true → t.soundOn = s.soundOn)

/-! ### Key input -/

/-- R211, R212: the key skips on the key levels of the step; a value above 0xF names no key and is not down: the spec's
decision D18. -/
def Obligations.KeySkipsReadTheKeyLevels : Prop :=
  ∀ (x : Reg) (s : State) (down : Bool),
    ((s.getV x).toNat ≤ 15 → down = s.input.keysDown.getLsbD (s.getV x).toNat) →
    ((s.getV x).toNat > 15 → down = false) →
    (∃ t, exec (.skp x) s = .next t ∧ t.pc = (if down then s.pc + 2 else s.pc) ∧ OnlyPc s t) ∧
    (∃ t, exec (.sknp x) s = .next t ∧ t.pc = (if down then s.pc else s.pc + 2) ∧ OnlyPc s t)

/-- R213, R210: FX0A enters the key wait, whatever key is down and whatever event this step carries, and changes nothing
else: PC stays `a + 2`. -/
def Obligations.WaitForKeyEntersTheWait : Prop :=
  ∀ (x : Reg) (s : State),
    exec (.ldVxK x) s = .next { s with run := .awaitingKey x }

/-- R214, R273: a `Step` in the key wait executes nothing. With a key-down event it stores the key's value in VX and the
core runs again, PC where it was; without one it changes nothing but the sound latch. That the completing step executes no
instruction is the spec's decision D18. -/
def Obligations.KeyWaitStepTakesOneEvent : Prop :=
  ∀ (input : StepInput) (x : Reg) (s : State), s.run = .awaitingKey x → s.input = .idle →
    (∀ k, input.keyEvent = some k →
      ∃ t, doCommand (.step input) s = .next t ∧ (t.getV x).toNat = k.val ∧ SameRegsBut s t [x] ∧
        t = { s with v := t.v, run := .running, soundOn := decide (s.st ≠ 0), out := none, loadable := false }) ∧
    (input.keyEvent = none →
      doCommand (.step input) s =
        .next { s with soundOn := decide (s.st ≠ 0), out := none, loadable := false })

/-- R214, R290: a key wait that sees no key-down event lasts for ever: any number of `Step`s without one leaves the core
waiting for the same register, with PC, registers, memory, stack, timers and frame as they were. -/
def Obligations.KeyWaitWithoutEventNeverEnds : Prop :=
  ∀ (x : Reg) (s : State) (cs rest : List Command), s.run = .awaitingKey x → s.input = .idle →
    s.pending = cs ++ rest → (∀ c ∈ cs, ∃ input : StepInput, c = .step input ∧ input.keyEvent = none) →
    ∃ t, Machine.run cs.length s = .next t ∧
      t = { s with pending := rest, soundOn := t.soundOn, out := t.out, loadable := t.loadable }

/-! ### The index register and memory transfers -/

/-- R230, R231, R232: the instructions that set I. That FX1E wraps at 65536 and FX29 does not mask VX are the spec's
decisions D16 and D12, that they leave VF alone its decisions D16 and D36. -/
def Obligations.IndexInstructionsSetI : Prop :=
  ∀ (nnn : Addr) (x : Reg) (s : State),
    (∃ t, exec (.ldI nnn) s = .next t ∧ t.i.toNat = nnn.toNat ∧ OnlyI s t) ∧
    (∃ t, exec (.addI x) s = .next t ∧ t.i.toNat = (s.i.toNat + (s.getV x).toNat) % 65536 ∧ OnlyI s t) ∧
    (∃ t, exec (.ldF x) s = .next t ∧ t.i.toNat = 0x050 + 5 * (s.getV x).toNat ∧ OnlyI s t)

/-- R233: the hundreds, tens and ones of VX at I, I + 1, I + 2; every other byte, I and every register as before. The range
check is the spec's decision D4. -/
def Obligations.BcdStoresThreeDigits : Prop :=
  ∀ (x : Reg) (s : State), Memory.wf (resetByte s.cfg) s.mem → s.i.toNat + 3 ≤ 4096 →
    ∃ t, exec (.ldB x) s = .next t ∧
      (t.readByte s.i.toNat).toNat = (s.getV x).toNat / 100 ∧
      (t.readByte (s.i.toNat + 1)).toNat = (s.getV x).toNat / 10 % 10 ∧
      (t.readByte (s.i.toNat + 2)).toNat = (s.getV x).toNat % 10 ∧
      OnlyMemory s t s.i.toNat 3

/-- R234, R236: V0..VX, X + 1 bytes, from I upwards; every other byte, I and every register as before. That I is left
unchanged is the spec's decision D14. -/
def Obligations.BlockStoreWritesRegisters : Prop :=
  ∀ (x : Reg) (s : State), Memory.wf (resetByte s.cfg) s.mem → s.i.toNat + x.val + 1 ≤ 4096 →
    ∃ t, exec (.storeRegs x) s = .next t ∧
      (∀ r : Reg, r ≤ x → t.readByte (s.i.toNat + r.val) = s.getV r) ∧ OnlyMemory s t s.i.toNat (x.val + 1)

/-- R235: V0..VX, X + 1 registers, from memory at I; every other register, I and memory as before; `AddressFault` when
`I + X > 0xFFF`, before any register is written. That I is left unchanged is the spec's decision D14 (R236), that an access
outside memory is fatal its decision D4 (R53); log entry 15. -/
def Obligations.BlockLoadReadsRegisters : Prop :=
  ∀ (x : Reg) (s : State),
    (s.i.toNat + x.val ≤ 0xFFF →
      ∃ t, exec (.loadRegs x) s = .next t ∧ (∀ r : Reg, r ≤ x → t.getV r = s.readByte (s.i.toNat + r.val)) ∧
        OnlyRegs s t ((List.finRange 16).filter fun r => r ≤ x)) ∧
    (s.i.toNat + x.val > 0xFFF →
      ∃ t, exec (.loadRegs x) s = .next t ∧ FatalEntry s t .addressFault (encode (.loadRegs x)))

/-- R233, R234, R53: a store that would leave memory is fatal and writes no byte. That it is fatal is the spec's decision
D4. -/
def Obligations.StoresOutsideMemoryAreFatal : Prop :=
  ∀ (x : Reg) (s : State),
    (s.i.toNat + 2 > 0xFFF → ∃ t, exec (.ldB x) s = .next t ∧ FatalEntry s t .addressFault (encode (.ldB x))) ∧
    (s.i.toNat + x.val > 0xFFF →
      ∃ t, exec (.storeRegs x) s = .next t ∧ FatalEntry s t .addressFault (encode (.storeRegs x)))

/-- R234, R235 (W7): a block store, then a block load of the same count through the same I from the memory the store left,
brings every transferred register back, whatever the registers hold in between. -/
def Obligations.StoreThenLoadRoundTrips : Prop :=
  ∀ (x : Reg) (s : State) (w : Vector Byte 16), Memory.wf (resetByte s.cfg) s.mem → s.i.toNat + x.val ≤ 0xFFF →
    ∃ t u, exec (.storeRegs x) s = .next t ∧ exec (.loadRegs x) { t with v := w } = .next u ∧
      (∀ r : Reg, r ≤ x → u.getV r = s.getV r) ∧ (∀ r : Reg, x < r → u.getV r = w[r]) ∧ u.i = s.i

/-- R62, R54: a fetch sees the bytes a store just wrote, high byte first: after FX55 with X >= 1, a state with that memory
and PC = I fetches V0 and V1 as one opcode. Coherence is the spec's decision D29. -/
def Obligations.FetchSeesStoredBytes : Prop :=
  ∀ (x : Reg) (s : State), Memory.wf (resetByte s.cfg) s.mem → 1 ≤ x → s.i.toNat + x.val ≤ 0xFFF →
    ∃ t, exec (.storeRegs x) s = .next t ∧
      ∀ u : State, u.cfg = t.cfg → u.mem = t.mem → u.pc = s.i →
        u.canFetch = true ∧ u.fetchWord.toNat = (s.getV 0).toNat * 256 + (s.getV 1).toNat

/-! ### One step of the machine -/

/-- R72, R282: when the two bytes at PC decode to an instruction, a step whose command is a `Step` runs that instruction:
`exec` on the state with the step's inputs latched and PC advanced by 2, and at its end the sound latch (`endStep`). With a
waiting command the inputs are its own; with none they are free values, and a free number of ticks came before. -/
def Obligations.StepRunsTheDecodedInstruction : Prop :=
  ∀ (s : State) (i : Instr), s.run = .running → s.pc.toNat + 1 ≤ 0xFFF →
    decode [s.readByte s.pc.toNat, s.readByte (s.pc.toNat + 1)] = .ok (i, []) →
    (∀ input rest, s.pending = .step input :: rest →
      step s = endStepOutcome
        (exec i { s with pending := rest, input := input, out := none, loadable := false, pc := s.pc + 2 })) ∧
    (s.pending = [] →
      step s = endStepOutcome
        (exec i { s.tickBy (Config.freeTicks s.draws) with
          draws := s.draws + 1, input := freeInput s.draws, out := none, loadable := false, pc := s.pc + 2 }))

/-- R262, R305: a `Step` at an unknown opcode emits the diagnostic with the address and the opcode, moves PC past it and
changes nothing else but the sound latch. The continuation at `a + 2` is the spec's decision D22. -/
def Obligations.UnknownOpcodeIsSkipped : Prop :=
  ∀ (s : State) (input : StepInput) (rest : List Command), s.run = .running → s.pc.toNat + 1 ≤ 0xFFF →
    s.input = .idle → s.pending = .step input :: rest →
    unknownSpace (wordOfBytes (s.readByte s.pc.toNat) (s.readByte (s.pc.toNat + 1))) = true →
    step s = .next { s with
      pending := rest, loadable := false, pc := s.pc + 2, soundOn := decide (s.st ≠ 0),
      out := some (.diag .unknownOpcode s.pc (wordOfBytes (s.readByte s.pc.toNat) (s.readByte (s.pc.toNat + 1)))) }

/-- R72, R263: a `Step` whose fetch would leave memory is fatal, `FetchFault`: PC is unchanged, no opcode is recorded, and
nothing else changes. The fault is the spec's decision D3. -/
def Obligations.FetchOutsideMemoryIsFatal : Prop :=
  ∀ (s : State) (input : StepInput) (rest : List Command), s.run = .running → s.pc.toNat ≥ 0xFFF →
    s.input = .idle → s.pending = .step input :: rest →
    step s = .next { s with
      pending := rest, loadable := false, run := .halted .fetchFault s.pc none,
      out := some (.fatal .fetchFault s.pc none) }

/-- R305: words 0x0000 are skipped two bytes at a time, for any number of steps that stays in memory: registers, I, memory,
stack, timers and frame are as they were. -/
def Obligations.EmptyMemoryIsSkipped : Prop :=
  ∀ (s : State) (cs rest : List Command), s.run = .running → s.input = .idle →
    s.pending = cs ++ rest → (∀ c ∈ cs, ∃ input : StepInput, c = .step input) →
    s.pc.toNat + 2 * cs.length ≤ 4096 → (∀ k, s.pc.toNat ≤ k → k ≤ 0xFFF → s.readByte k = 0) →
    ∃ t, Machine.run cs.length s = .next t ∧ t.pc.toNat = s.pc.toNat + 2 * cs.length ∧
      t = { s with pc := t.pc, pending := rest, soundOn := t.soundOn, out := t.out, loadable := t.loadable }

/-- R263: a `Step` in `Running` that ends halted keeps every element at its value from before the step, PC and `sound_on`
included; the run state and the event record one cause, the address the step fetched from, and the opcode it fetched (none for a
fetch fault). Precision is the spec's decision D21. -/
def Obligations.FatalStepRestoresTheState : Prop :=
  ∀ (s t : State) (input : StepInput) (rest : List Command), s.run = .running → s.input = .idle →
    s.pending = .step input :: rest → step s = .next t → t.isHalted = true →
    ∃ c op, t = { s with
        pending := rest, loadable := false, run := .halted c s.pc op, out := some (.fatal c s.pc op) } ∧
      (op = none ∧ c = .fetchFault ∨ op = some s.fetchWord)

/-- R264: in `Halted`, `Step` and `Tick` commands change nothing and emit nothing, however many; and when no command waits,
the halted machine is a fault (log entry 6: the model's reading of "A model should treat a halted state as a fault"). -/
def Obligations.HaltedIgnoresStepAndTick : Prop :=
  ∀ (s : State) (c : Cause) (a : Word) (op : Option Word), s.run = .halted c a op →
    (∀ cs rest : List Command, s.pending = cs ++ rest → cs ≠ [] →
      (∀ d ∈ cs, d = .tick ∨ ∃ input, d = .step input) →
      Machine.run cs.length s = .next { s with pending := rest, out := none }) ∧
    (s.pending = [] → step s = .fault (.halted c a op))

/-! ### Reset and load -/

/-- R39, R300: `Reset` is accepted in every state and gives every element its reset value; it emits nothing. The
configuration and the host's waiting commands stay (log entry 13: the model's choice). -/
def Obligations.ResetGivesEveryElementItsValue : Prop :=
  ∀ s : State, ∃ t, doCommand .reset s = .next t ∧
    (∀ a, a ≤ 0xFFF → t.readByte a = if 0x050 ≤ a ∧ a ≤ 0x09F then s.cfg.fontTable.getD (a - 0x050) 0 else 0) ∧
    (∀ r, t.getV r = 0) ∧ t.i = 0 ∧ t.pc = 0x200 ∧ t.stack = [] ∧ t.dt = 0 ∧ t.st = 0 ∧
    (∀ px py, px < 64 → py < 32 → getPixel t.fb px py = false) ∧ t.run = .running ∧ t.soundOn = false ∧
    t.out = none ∧ t.cfg = s.cfg ∧ t.pending = s.pending

/-- R302, R303: `Load` copies a ROM of at most 3584 bytes to 0x200 upwards and writes nothing else; a longer one is fatal,
`OversizedRom`, and writes no memory; a `Load` at another time than once, after `Reset` and before the first `Step`, is
refused. -/
def Obligations.LoadWritesTheRomOrFails : Prop :=
  ∀ (rom : List Byte) (s : State),
    (s.loadable = true → Memory.wf (resetByte s.cfg) s.mem → rom.length ≤ 3584 →
      ∃ t, doCommand (.load rom) s = .next t ∧
        (∀ k b, rom[k]? = some b → t.readByte (0x200 + k) = b) ∧ SameMemoryOutside s t 0x200 rom.length ∧
        t = { s with mem := t.mem, loadable := false, out := none }) ∧
    (s.loadable = true → rom.length > 3584 →
      doCommand (.load rom) s = .next { s with
        loadable := false, run := .halted .oversizedRom 0x200 none, out := some (.fatal .oversizedRom 0x200 none) }) ∧
    (s.loadable = false → doCommand (.load rom) s = .refused .loadOutOfOrder)

/-! ### Encoding -/

/-- R76, R83: decoding the encoding of any instruction gives it back, with every operand at every value: no bit of an
encoding is dropped. -/
def Obligations.DecodeOfEncodeIsTheInstruction : Prop :=
  ∀ i : Instr, i.wf = true → decodeWord (encode i) = .ok i ∧ decode (encodeBytes i) = .ok (i, [])

/-- R76, R83: a word that decodes is the encoding of its instruction, so each word has one meaning, and it selects that
instruction's row of the table. -/
def Obligations.EncodeOfDecodeIsTheWord : Prop :=
  ∀ (op : Word) (i : Instr), decodeWord op = .ok i → encode i = op ∧ i.row.selects op = true

/-- R76: the rows do not overlap: a word that selects an instruction's row decodes to an instruction of that very row. -/
def Obligations.SelectedRowIsTheDecodedRow : Prop :=
  ∀ (op : Word) (i : Instr), i.row.selects op = true → ∃ j, decodeWord op = .ok j ∧ j.row = i.row

/-- R82: the unknown-opcode space is exactly the one R82 lists, and the decoder names the word it rejects. -/
def Obligations.UnknownSpaceIsExact : Prop :=
  ∀ op : Word,
    (unknownSpace op = true → decodeWord op = .error (.unknownOpcode op)) ∧
    (unknownSpace op = false → ∃ i, decodeWord op = .ok i)

/-- R76: a few words written out from the spec's encodings, one of each family with a sub-dispatch and more, decode to the
instructions they stand for. -/
def Obligations.SampleWordsDecode : Prop :=
  decodeWord 0x0FEE = .ok (.ret 0xF) ∧ decodeWord 0x12F0 = .ok (.jp 0x2F0) ∧
  decodeWord 0x5123 = .ok (.seReg 1 2 3) ∧ decodeWord 0x6A42 = .ok (.ldImm 10 0x42) ∧
  decodeWord 0x8F14 = .ok (.addReg 15 1) ∧ decodeWord 0x801E = .ok (.shl 0 1) ∧
  decodeWord 0xD01F = .ok (.drw 0 1 0xF) ∧ decodeWord 0xE5A1 = .ok (.sknp 5) ∧
  decodeWord 0xF265 = .ok (.loadRegs 2) ∧ decodeWord 0x8008 = .error (.unknownOpcode 0x8008)

/-! ### Whole-machine rules -/

/-- The invariant holds after reset, under every configuration. -/
def Obligations.InvariantHoldsAtReset : Prop := State.reset.Inv ∧ ∀ cfg, (State.resetOf cfg).Inv

/-- Every step keeps the invariant: memory stays canonical, the stack keeps its bound, return addresses stay at most 0x1000
and PC at most 0x10FE (R26: no reachable state wraps), and a `Load` that may still come meets the reset state. -/
def Obligations.StepKeepsTheInvariant : Prop :=
  ∀ s t : State, s.Inv → step s = .next t → t.Inv

/-- R10: configuration is fixed for the life of the machine: no step changes it. -/
def Obligations.StepKeepsTheConfiguration : Prop :=
  ∀ s t : State, step s = .next t → t.cfg = s.cfg

/-- R282: every instruction completes in every state: its execute phase is a next state. The run state changes only by a fatal
entry, of one of the instructions R260 names, and by FX0A, which enters the key wait (R213). -/
def Obligations.EveryInstructionCompletes : Prop :=
  ∀ (i : Instr) (s : State), ∃ t, exec i s = .next t ∧
    ((i.mayBeFatal = true ∧ ∃ c, FatalEntry s t c (encode i)) ∨ t.run = s.run ∨ ∃ x, i = .ldVxK x)

/-- R23: no instruction writes a general register but those R23 gives it. -/
def Obligations.OnlyListedRegistersAreWritten : Prop :=
  ∀ (i : Instr) (s t : State), exec i s = .next t → SameRegsBut s t i.regsWritten

/-- R25, R27, R28, R31, R51, R52: who writes what: memory only by FX33 and FX55, the frame only by 00E0 and DXYN, the stack
only by 2NNN and 00EE, I only by ANNN, FX1E and FX29, the timers only by FX15 and FX18, PC, beyond its advance, only by the
instructions of R25 or a fatal entry. No instruction writes `sound_on`, the configuration, the inputs or the host's commands. -/
def Obligations.EachElementHasItsWriters : Prop :=
  ∀ (i : Instr) (s t : State), exec i s = .next t →
    (i.storesToMemory = false → t.mem = s.mem) ∧ (i.drawsToDisplay = false → t.fb = s.fb) ∧
    (i.touchesStack = false → t.stack = s.stack) ∧ (i.writesI = false → t.i = s.i) ∧
    ((∀ x, i ≠ .ldDtVx x) → t.dt = s.dt) ∧ ((∀ x, i ≠ .ldStVx x) → t.st = s.st) ∧
    (i.writesPc = false → t.pc = s.pc ∨ ∃ c, FatalEntry s t c (encode i)) ∧
    t.soundOn = s.soundOn ∧ t.cfg = s.cfg ∧ t.input = s.input ∧ t.pending = s.pending ∧ t.draws = s.draws

/-- R283: the inputs of a step are read by EX9E, EXA1 (the key levels) and CXNN (the random byte) alone, and the key event
by no instruction: two runs that differ in inputs the instruction does not read end in states that differ in those inputs
alone. -/
def Obligations.InstructionsReadOnlyTheirInputs : Prop :=
  ∀ (i : Instr) (s t : State) (input : StepInput),
    (i.readsKeys = true → input.keysDown = s.input.keysDown) → (i.readsRnd = true → input.rnd = s.input.rnd) →
    exec i s = .next t → exec i { s with input := input } = .next { t with input := input }

/-- R284: which instruction emits which event: `Present` DXYN, with the frame it leaves; `Clear` 00E0; a diagnostic 2NNN; a
fatal event comes with the halted state of the same cause, address and opcode. -/
def Obligations.EventsComeFromTheirInstructions : Prop :=
  ∀ (i : Instr) (s t : State), s.out = none → exec i s = .next t →
    match t.out with
    | none => True
    | some (.present fb) => fb = t.fb ∧ ∃ x y n, i = .drw x y n
    | some .clear => ∃ z, i = .cls z
    | some (.diag code a op) =>
      code = .stackOverflowIgnored ∧ a = s.pc - 2 ∧ op = encode i ∧ ∃ nnn, i = .call nnn
    | some (.fatal c a op) =>
      t.run = .halted c a op ∧ a = s.pc - 2 ∧ op = some (encode i) ∧ i.mayBeFatal = true

/-- R285, R313: what the devices show lags the state: the presentation device sees a new frame only at a DXYN or a 00E0 that
raises no fatal condition, and then it is the frame the instruction leaves; a `Tick` shows no frame and starts or stops no tone.
That a `Tick` leaves `sound_on` alone is the spec's decision D20; the two functions are the model's (log entry 17). -/
def Obligations.DisplayAndSoundLagTheirState : Prop :=
  (∀ (i : Instr) (s t : State) (shown : Framebuffer), s.out = none → s.isHalted = false → exec i s = .next t →
    shownFrame shown t = if i.drawsToDisplay = true ∧ t.isHalted = false then t.fb else shown) ∧
  (∀ (s t : State) (shown : Framebuffer), doCommand .tick s = .next t →
    audioCommand s t = none ∧ shownFrame shown t = shown)
end

