-- ==== Sys2Proof/Laws/State.lean ====
section
/-! SUPPORT. One lemma per field per named update of State, true by rfl, and the same for the two derived accessors `getV`
and `readByte`: no later proof unfolds a record update. -/

namespace Sys2Proof.Machine

variable (s : State)

/-! ### setV -/

@[simp] theorem State.setV_cfg (r : Reg) (b : Byte) : (s.setV r b).cfg = s.cfg := rfl
@[simp] theorem State.setV_mem (r : Reg) (b : Byte) : (s.setV r b).mem = s.mem := rfl
@[simp] theorem State.setV_v (r : Reg) (b : Byte) : (s.setV r b).v = s.v.set r b := rfl
@[simp] theorem State.setV_i (r : Reg) (b : Byte) : (s.setV r b).i = s.i := rfl
@[simp] theorem State.setV_pc (r : Reg) (b : Byte) : (s.setV r b).pc = s.pc := rfl
@[simp] theorem State.setV_stack (r : Reg) (b : Byte) : (s.setV r b).stack = s.stack := rfl
@[simp] theorem State.setV_dt (r : Reg) (b : Byte) : (s.setV r b).dt = s.dt := rfl
@[simp] theorem State.setV_st (r : Reg) (b : Byte) : (s.setV r b).st = s.st := rfl
@[simp] theorem State.setV_fb (r : Reg) (b : Byte) : (s.setV r b).fb = s.fb := rfl
@[simp] theorem State.setV_run (r : Reg) (b : Byte) : (s.setV r b).run = s.run := rfl
@[simp] theorem State.setV_soundOn (r : Reg) (b : Byte) : (s.setV r b).soundOn = s.soundOn := rfl
@[simp] theorem State.setV_out (r : Reg) (b : Byte) : (s.setV r b).out = s.out := rfl
@[simp] theorem State.setV_input (r : Reg) (b : Byte) : (s.setV r b).input = s.input := rfl
@[simp] theorem State.setV_loadable (r : Reg) (b : Byte) : (s.setV r b).loadable = s.loadable := rfl
@[simp] theorem State.setV_pending (r : Reg) (b : Byte) : (s.setV r b).pending = s.pending := rfl
@[simp] theorem State.setV_draws (r : Reg) (b : Byte) : (s.setV r b).draws = s.draws := rfl
@[simp] theorem State.setV_readByte (r : Reg) (b : Byte) (k : Nat) : (s.setV r b).readByte k = s.readByte k := rfl

/-! ### setI -/

@[simp] theorem State.setI_cfg (w : Word) : (s.setI w).cfg = s.cfg := rfl
@[simp] theorem State.setI_mem (w : Word) : (s.setI w).mem = s.mem := rfl
@[simp] theorem State.setI_v (w : Word) : (s.setI w).v = s.v := rfl
@[simp] theorem State.setI_i (w : Word) : (s.setI w).i = w := rfl
@[simp] theorem State.setI_pc (w : Word) : (s.setI w).pc = s.pc := rfl
@[simp] theorem State.setI_stack (w : Word) : (s.setI w).stack = s.stack := rfl
@[simp] theorem State.setI_dt (w : Word) : (s.setI w).dt = s.dt := rfl
@[simp] theorem State.setI_st (w : Word) : (s.setI w).st = s.st := rfl
@[simp] theorem State.setI_fb (w : Word) : (s.setI w).fb = s.fb := rfl
@[simp] theorem State.setI_run (w : Word) : (s.setI w).run = s.run := rfl
@[simp] theorem State.setI_soundOn (w : Word) : (s.setI w).soundOn = s.soundOn := rfl
@[simp] theorem State.setI_out (w : Word) : (s.setI w).out = s.out := rfl
@[simp] theorem State.setI_input (w : Word) : (s.setI w).input = s.input := rfl
@[simp] theorem State.setI_loadable (w : Word) : (s.setI w).loadable = s.loadable := rfl
@[simp] theorem State.setI_pending (w : Word) : (s.setI w).pending = s.pending := rfl
@[simp] theorem State.setI_draws (w : Word) : (s.setI w).draws = s.draws := rfl
@[simp] theorem State.setI_getV (w : Word) (q : Reg) : (s.setI w).getV q = s.getV q := rfl
@[simp] theorem State.setI_readByte (w : Word) (k : Nat) : (s.setI w).readByte k = s.readByte k := rfl

/-! ### setPc -/

@[simp] theorem State.setPc_cfg (w : Word) : (s.setPc w).cfg = s.cfg := rfl
@[simp] theorem State.setPc_mem (w : Word) : (s.setPc w).mem = s.mem := rfl
@[simp] theorem State.setPc_v (w : Word) : (s.setPc w).v = s.v := rfl
@[simp] theorem State.setPc_i (w : Word) : (s.setPc w).i = s.i := rfl
@[simp] theorem State.setPc_pc (w : Word) : (s.setPc w).pc = w := rfl
@[simp] theorem State.setPc_stack (w : Word) : (s.setPc w).stack = s.stack := rfl
@[simp] theorem State.setPc_dt (w : Word) : (s.setPc w).dt = s.dt := rfl
@[simp] theorem State.setPc_st (w : Word) : (s.setPc w).st = s.st := rfl
@[simp] theorem State.setPc_fb (w : Word) : (s.setPc w).fb = s.fb := rfl
@[simp] theorem State.setPc_run (w : Word) : (s.setPc w).run = s.run := rfl
@[simp] theorem State.setPc_soundOn (w : Word) : (s.setPc w).soundOn = s.soundOn := rfl
@[simp] theorem State.setPc_out (w : Word) : (s.setPc w).out = s.out := rfl
@[simp] theorem State.setPc_input (w : Word) : (s.setPc w).input = s.input := rfl
@[simp] theorem State.setPc_loadable (w : Word) : (s.setPc w).loadable = s.loadable := rfl
@[simp] theorem State.setPc_pending (w : Word) : (s.setPc w).pending = s.pending := rfl
@[simp] theorem State.setPc_draws (w : Word) : (s.setPc w).draws = s.draws := rfl
@[simp] theorem State.setPc_getV (w : Word) (q : Reg) : (s.setPc w).getV q = s.getV q := rfl
@[simp] theorem State.setPc_readByte (w : Word) (k : Nat) : (s.setPc w).readByte k = s.readByte k := rfl

/-! ### setDt -/

@[simp] theorem State.setDt_cfg (b : Byte) : (s.setDt b).cfg = s.cfg := rfl
@[simp] theorem State.setDt_mem (b : Byte) : (s.setDt b).mem = s.mem := rfl
@[simp] theorem State.setDt_v (b : Byte) : (s.setDt b).v = s.v := rfl
@[simp] theorem State.setDt_i (b : Byte) : (s.setDt b).i = s.i := rfl
@[simp] theorem State.setDt_pc (b : Byte) : (s.setDt b).pc = s.pc := rfl
@[simp] theorem State.setDt_stack (b : Byte) : (s.setDt b).stack = s.stack := rfl
@[simp] theorem State.setDt_dt (b : Byte) : (s.setDt b).dt = b := rfl
@[simp] theorem State.setDt_st (b : Byte) : (s.setDt b).st = s.st := rfl
@[simp] theorem State.setDt_fb (b : Byte) : (s.setDt b).fb = s.fb := rfl
@[simp] theorem State.setDt_run (b : Byte) : (s.setDt b).run = s.run := rfl
@[simp] theorem State.setDt_soundOn (b : Byte) : (s.setDt b).soundOn = s.soundOn := rfl
@[simp] theorem State.setDt_out (b : Byte) : (s.setDt b).out = s.out := rfl
@[simp] theorem State.setDt_input (b : Byte) : (s.setDt b).input = s.input := rfl
@[simp] theorem State.setDt_loadable (b : Byte) : (s.setDt b).loadable = s.loadable := rfl
@[simp] theorem State.setDt_pending (b : Byte) : (s.setDt b).pending = s.pending := rfl
@[simp] theorem State.setDt_draws (b : Byte) : (s.setDt b).draws = s.draws := rfl
@[simp] theorem State.setDt_getV (b : Byte) (q : Reg) : (s.setDt b).getV q = s.getV q := rfl
@[simp] theorem State.setDt_readByte (b : Byte) (k : Nat) : (s.setDt b).readByte k = s.readByte k := rfl

/-! ### setSt -/

@[simp] theorem State.setSt_cfg (b : Byte) : (s.setSt b).cfg = s.cfg := rfl
@[simp] theorem State.setSt_mem (b : Byte) : (s.setSt b).mem = s.mem := rfl
@[simp] theorem State.setSt_v (b : Byte) : (s.setSt b).v = s.v := rfl
@[simp] theorem State.setSt_i (b : Byte) : (s.setSt b).i = s.i := rfl
@[simp] theorem State.setSt_pc (b : Byte) : (s.setSt b).pc = s.pc := rfl
@[simp] theorem State.setSt_stack (b : Byte) : (s.setSt b).stack = s.stack := rfl
@[simp] theorem State.setSt_dt (b : Byte) : (s.setSt b).dt = s.dt := rfl
@[simp] theorem State.setSt_st (b : Byte) : (s.setSt b).st = b := rfl
@[simp] theorem State.setSt_fb (b : Byte) : (s.setSt b).fb = s.fb := rfl
@[simp] theorem State.setSt_run (b : Byte) : (s.setSt b).run = s.run := rfl
@[simp] theorem State.setSt_soundOn (b : Byte) : (s.setSt b).soundOn = s.soundOn := rfl
@[simp] theorem State.setSt_out (b : Byte) : (s.setSt b).out = s.out := rfl
@[simp] theorem State.setSt_input (b : Byte) : (s.setSt b).input = s.input := rfl
@[simp] theorem State.setSt_loadable (b : Byte) : (s.setSt b).loadable = s.loadable := rfl
@[simp] theorem State.setSt_pending (b : Byte) : (s.setSt b).pending = s.pending := rfl
@[simp] theorem State.setSt_draws (b : Byte) : (s.setSt b).draws = s.draws := rfl
@[simp] theorem State.setSt_getV (b : Byte) (q : Reg) : (s.setSt b).getV q = s.getV q := rfl
@[simp] theorem State.setSt_readByte (b : Byte) (k : Nat) : (s.setSt b).readByte k = s.readByte k := rfl

/-! ### setFb -/

@[simp] theorem State.setFb_cfg (fb : Framebuffer) : (s.setFb fb).cfg = s.cfg := rfl
@[simp] theorem State.setFb_mem (fb : Framebuffer) : (s.setFb fb).mem = s.mem := rfl
@[simp] theorem State.setFb_v (fb : Framebuffer) : (s.setFb fb).v = s.v := rfl
@[simp] theorem State.setFb_i (fb : Framebuffer) : (s.setFb fb).i = s.i := rfl
@[simp] theorem State.setFb_pc (fb : Framebuffer) : (s.setFb fb).pc = s.pc := rfl
@[simp] theorem State.setFb_stack (fb : Framebuffer) : (s.setFb fb).stack = s.stack := rfl
@[simp] theorem State.setFb_dt (fb : Framebuffer) : (s.setFb fb).dt = s.dt := rfl
@[simp] theorem State.setFb_st (fb : Framebuffer) : (s.setFb fb).st = s.st := rfl
@[simp] theorem State.setFb_fb (fb : Framebuffer) : (s.setFb fb).fb = fb := rfl
@[simp] theorem State.setFb_run (fb : Framebuffer) : (s.setFb fb).run = s.run := rfl
@[simp] theorem State.setFb_soundOn (fb : Framebuffer) : (s.setFb fb).soundOn = s.soundOn := rfl
@[simp] theorem State.setFb_out (fb : Framebuffer) : (s.setFb fb).out = s.out := rfl
@[simp] theorem State.setFb_input (fb : Framebuffer) : (s.setFb fb).input = s.input := rfl
@[simp] theorem State.setFb_loadable (fb : Framebuffer) : (s.setFb fb).loadable = s.loadable := rfl
@[simp] theorem State.setFb_pending (fb : Framebuffer) : (s.setFb fb).pending = s.pending := rfl
@[simp] theorem State.setFb_draws (fb : Framebuffer) : (s.setFb fb).draws = s.draws := rfl
@[simp] theorem State.setFb_getV (fb : Framebuffer) (q : Reg) : (s.setFb fb).getV q = s.getV q := rfl
@[simp] theorem State.setFb_readByte (fb : Framebuffer) (k : Nat) : (s.setFb fb).readByte k = s.readByte k := rfl

/-! ### setRun -/

@[simp] theorem State.setRun_cfg (r : RunState) : (s.setRun r).cfg = s.cfg := rfl
@[simp] theorem State.setRun_mem (r : RunState) : (s.setRun r).mem = s.mem := rfl
@[simp] theorem State.setRun_v (r : RunState) : (s.setRun r).v = s.v := rfl
@[simp] theorem State.setRun_i (r : RunState) : (s.setRun r).i = s.i := rfl
@[simp] theorem State.setRun_pc (r : RunState) : (s.setRun r).pc = s.pc := rfl
@[simp] theorem State.setRun_stack (r : RunState) : (s.setRun r).stack = s.stack := rfl
@[simp] theorem State.setRun_dt (r : RunState) : (s.setRun r).dt = s.dt := rfl
@[simp] theorem State.setRun_st (r : RunState) : (s.setRun r).st = s.st := rfl
@[simp] theorem State.setRun_fb (r : RunState) : (s.setRun r).fb = s.fb := rfl
@[simp] theorem State.setRun_run (r : RunState) : (s.setRun r).run = r := rfl
@[simp] theorem State.setRun_soundOn (r : RunState) : (s.setRun r).soundOn = s.soundOn := rfl
@[simp] theorem State.setRun_out (r : RunState) : (s.setRun r).out = s.out := rfl
@[simp] theorem State.setRun_input (r : RunState) : (s.setRun r).input = s.input := rfl
@[simp] theorem State.setRun_loadable (r : RunState) : (s.setRun r).loadable = s.loadable := rfl
@[simp] theorem State.setRun_pending (r : RunState) : (s.setRun r).pending = s.pending := rfl
@[simp] theorem State.setRun_draws (r : RunState) : (s.setRun r).draws = s.draws := rfl
@[simp] theorem State.setRun_getV (r : RunState) (q : Reg) : (s.setRun r).getV q = s.getV q := rfl
@[simp] theorem State.setRun_readByte (r : RunState) (k : Nat) : (s.setRun r).readByte k = s.readByte k := rfl

/-! ### emit -/

@[simp] theorem State.emit_cfg (e : Event) : (s.emit e).cfg = s.cfg := rfl
@[simp] theorem State.emit_mem (e : Event) : (s.emit e).mem = s.mem := rfl
@[simp] theorem State.emit_v (e : Event) : (s.emit e).v = s.v := rfl
@[simp] theorem State.emit_i (e : Event) : (s.emit e).i = s.i := rfl
@[simp] theorem State.emit_pc (e : Event) : (s.emit e).pc = s.pc := rfl
@[simp] theorem State.emit_stack (e : Event) : (s.emit e).stack = s.stack := rfl
@[simp] theorem State.emit_dt (e : Event) : (s.emit e).dt = s.dt := rfl
@[simp] theorem State.emit_st (e : Event) : (s.emit e).st = s.st := rfl
@[simp] theorem State.emit_fb (e : Event) : (s.emit e).fb = s.fb := rfl
@[simp] theorem State.emit_run (e : Event) : (s.emit e).run = s.run := rfl
@[simp] theorem State.emit_soundOn (e : Event) : (s.emit e).soundOn = s.soundOn := rfl
@[simp] theorem State.emit_out (e : Event) : (s.emit e).out = some e := rfl
@[simp] theorem State.emit_input (e : Event) : (s.emit e).input = s.input := rfl
@[simp] theorem State.emit_loadable (e : Event) : (s.emit e).loadable = s.loadable := rfl
@[simp] theorem State.emit_pending (e : Event) : (s.emit e).pending = s.pending := rfl
@[simp] theorem State.emit_draws (e : Event) : (s.emit e).draws = s.draws := rfl
@[simp] theorem State.emit_getV (e : Event) (q : Reg) : (s.emit e).getV q = s.getV q := rfl
@[simp] theorem State.emit_readByte (e : Event) (k : Nat) : (s.emit e).readByte k = s.readByte k := rfl

/-! ### writeByte -/

@[simp] theorem State.writeByte_cfg (a : Nat) (b : Byte) : (s.writeByte a b).cfg = s.cfg := rfl
@[simp] theorem State.writeByte_mem (a : Nat) (b : Byte) : (s.writeByte a b).mem = Memory.write (resetByte s.cfg) s.mem a b := rfl
@[simp] theorem State.writeByte_v (a : Nat) (b : Byte) : (s.writeByte a b).v = s.v := rfl
@[simp] theorem State.writeByte_i (a : Nat) (b : Byte) : (s.writeByte a b).i = s.i := rfl
@[simp] theorem State.writeByte_pc (a : Nat) (b : Byte) : (s.writeByte a b).pc = s.pc := rfl
@[simp] theorem State.writeByte_stack (a : Nat) (b : Byte) : (s.writeByte a b).stack = s.stack := rfl
@[simp] theorem State.writeByte_dt (a : Nat) (b : Byte) : (s.writeByte a b).dt = s.dt := rfl
@[simp] theorem State.writeByte_st (a : Nat) (b : Byte) : (s.writeByte a b).st = s.st := rfl
@[simp] theorem State.writeByte_fb (a : Nat) (b : Byte) : (s.writeByte a b).fb = s.fb := rfl
@[simp] theorem State.writeByte_run (a : Nat) (b : Byte) : (s.writeByte a b).run = s.run := rfl
@[simp] theorem State.writeByte_soundOn (a : Nat) (b : Byte) : (s.writeByte a b).soundOn = s.soundOn := rfl
@[simp] theorem State.writeByte_out (a : Nat) (b : Byte) : (s.writeByte a b).out = s.out := rfl
@[simp] theorem State.writeByte_input (a : Nat) (b : Byte) : (s.writeByte a b).input = s.input := rfl
@[simp] theorem State.writeByte_loadable (a : Nat) (b : Byte) : (s.writeByte a b).loadable = s.loadable := rfl
@[simp] theorem State.writeByte_pending (a : Nat) (b : Byte) : (s.writeByte a b).pending = s.pending := rfl
@[simp] theorem State.writeByte_draws (a : Nat) (b : Byte) : (s.writeByte a b).draws = s.draws := rfl
@[simp] theorem State.writeByte_getV (a : Nat) (b : Byte) (q : Reg) : (s.writeByte a b).getV q = s.getV q := rfl

/-! ### push -/

@[simp] theorem State.push_cfg (w : Word) : (s.push w).cfg = s.cfg := rfl
@[simp] theorem State.push_mem (w : Word) : (s.push w).mem = s.mem := rfl
@[simp] theorem State.push_v (w : Word) : (s.push w).v = s.v := rfl
@[simp] theorem State.push_i (w : Word) : (s.push w).i = s.i := rfl
@[simp] theorem State.push_pc (w : Word) : (s.push w).pc = s.pc := rfl
@[simp] theorem State.push_stack (w : Word) : (s.push w).stack = s.stack ++ [w] := rfl
@[simp] theorem State.push_dt (w : Word) : (s.push w).dt = s.dt := rfl
@[simp] theorem State.push_st (w : Word) : (s.push w).st = s.st := rfl
@[simp] theorem State.push_fb (w : Word) : (s.push w).fb = s.fb := rfl
@[simp] theorem State.push_run (w : Word) : (s.push w).run = s.run := rfl
@[simp] theorem State.push_soundOn (w : Word) : (s.push w).soundOn = s.soundOn := rfl
@[simp] theorem State.push_out (w : Word) : (s.push w).out = s.out := rfl
@[simp] theorem State.push_input (w : Word) : (s.push w).input = s.input := rfl
@[simp] theorem State.push_loadable (w : Word) : (s.push w).loadable = s.loadable := rfl
@[simp] theorem State.push_pending (w : Word) : (s.push w).pending = s.pending := rfl
@[simp] theorem State.push_draws (w : Word) : (s.push w).draws = s.draws := rfl
@[simp] theorem State.push_getV (w : Word) (q : Reg) : (s.push w).getV q = s.getV q := rfl
@[simp] theorem State.push_readByte (w : Word) (k : Nat) : (s.push w).readByte k = s.readByte k := rfl

/-! ### pop -/

@[simp] theorem State.pop_cfg : (s.pop).cfg = s.cfg := rfl
@[simp] theorem State.pop_mem : (s.pop).mem = s.mem := rfl
@[simp] theorem State.pop_v : (s.pop).v = s.v := rfl
@[simp] theorem State.pop_i : (s.pop).i = s.i := rfl
@[simp] theorem State.pop_pc : (s.pop).pc = s.pc := rfl
@[simp] theorem State.pop_stack : (s.pop).stack = s.stack.dropLast := rfl
@[simp] theorem State.pop_dt : (s.pop).dt = s.dt := rfl
@[simp] theorem State.pop_st : (s.pop).st = s.st := rfl
@[simp] theorem State.pop_fb : (s.pop).fb = s.fb := rfl
@[simp] theorem State.pop_run : (s.pop).run = s.run := rfl
@[simp] theorem State.pop_soundOn : (s.pop).soundOn = s.soundOn := rfl
@[simp] theorem State.pop_out : (s.pop).out = s.out := rfl
@[simp] theorem State.pop_input : (s.pop).input = s.input := rfl
@[simp] theorem State.pop_loadable : (s.pop).loadable = s.loadable := rfl
@[simp] theorem State.pop_pending : (s.pop).pending = s.pending := rfl
@[simp] theorem State.pop_draws : (s.pop).draws = s.draws := rfl
@[simp] theorem State.pop_getV (q : Reg) : (s.pop).getV q = s.getV q := rfl
@[simp] theorem State.pop_readByte (k : Nat) : (s.pop).readByte k = s.readByte k := rfl

/-! ### halt -/

@[simp] theorem State.halt_cfg (c : Cause) (a : Word) (op : Option Word) : (s.halt c a op).cfg = s.cfg := rfl
@[simp] theorem State.halt_mem (c : Cause) (a : Word) (op : Option Word) : (s.halt c a op).mem = s.mem := rfl
@[simp] theorem State.halt_v (c : Cause) (a : Word) (op : Option Word) : (s.halt c a op).v = s.v := rfl
@[simp] theorem State.halt_i (c : Cause) (a : Word) (op : Option Word) : (s.halt c a op).i = s.i := rfl
@[simp] theorem State.halt_pc (c : Cause) (a : Word) (op : Option Word) : (s.halt c a op).pc = s.pc := rfl
@[simp] theorem State.halt_stack (c : Cause) (a : Word) (op : Option Word) : (s.halt c a op).stack = s.stack := rfl
@[simp] theorem State.halt_dt (c : Cause) (a : Word) (op : Option Word) : (s.halt c a op).dt = s.dt := rfl
@[simp] theorem State.halt_st (c : Cause) (a : Word) (op : Option Word) : (s.halt c a op).st = s.st := rfl
@[simp] theorem State.halt_fb (c : Cause) (a : Word) (op : Option Word) : (s.halt c a op).fb = s.fb := rfl
@[simp] theorem State.halt_run (c : Cause) (a : Word) (op : Option Word) : (s.halt c a op).run = .halted c a op := rfl
@[simp] theorem State.halt_soundOn (c : Cause) (a : Word) (op : Option Word) : (s.halt c a op).soundOn = s.soundOn := rfl
@[simp] theorem State.halt_out (c : Cause) (a : Word) (op : Option Word) : (s.halt c a op).out = some (.fatal c a op) := rfl
@[simp] theorem State.halt_input (c : Cause) (a : Word) (op : Option Word) : (s.halt c a op).input = s.input := rfl
@[simp] theorem State.halt_loadable (c : Cause) (a : Word) (op : Option Word) : (s.halt c a op).loadable = s.loadable := rfl
@[simp] theorem State.halt_pending (c : Cause) (a : Word) (op : Option Word) : (s.halt c a op).pending = s.pending := rfl
@[simp] theorem State.halt_draws (c : Cause) (a : Word) (op : Option Word) : (s.halt c a op).draws = s.draws := rfl
@[simp] theorem State.halt_getV (c : Cause) (a : Word) (op : Option Word) (q : Reg) : (s.halt c a op).getV q = s.getV q := rfl
@[simp] theorem State.halt_readByte (c : Cause) (a : Word) (op : Option Word) (k : Nat) : (s.halt c a op).readByte k = s.readByte k := rfl

/-! ### raiseFatal -/

@[simp] theorem State.raiseFatal_cfg (c : Cause) (op : Word) : (s.raiseFatal c op).cfg = s.cfg := rfl
@[simp] theorem State.raiseFatal_mem (c : Cause) (op : Word) : (s.raiseFatal c op).mem = s.mem := rfl
@[simp] theorem State.raiseFatal_v (c : Cause) (op : Word) : (s.raiseFatal c op).v = s.v := rfl
@[simp] theorem State.raiseFatal_i (c : Cause) (op : Word) : (s.raiseFatal c op).i = s.i := rfl
@[simp] theorem State.raiseFatal_pc (c : Cause) (op : Word) : (s.raiseFatal c op).pc = s.instrAddr := rfl
@[simp] theorem State.raiseFatal_stack (c : Cause) (op : Word) : (s.raiseFatal c op).stack = s.stack := rfl
@[simp] theorem State.raiseFatal_dt (c : Cause) (op : Word) : (s.raiseFatal c op).dt = s.dt := rfl
@[simp] theorem State.raiseFatal_st (c : Cause) (op : Word) : (s.raiseFatal c op).st = s.st := rfl
@[simp] theorem State.raiseFatal_fb (c : Cause) (op : Word) : (s.raiseFatal c op).fb = s.fb := rfl
@[simp] theorem State.raiseFatal_run (c : Cause) (op : Word) : (s.raiseFatal c op).run = .halted c s.instrAddr (some op) := rfl
@[simp] theorem State.raiseFatal_soundOn (c : Cause) (op : Word) : (s.raiseFatal c op).soundOn = s.soundOn := rfl
@[simp] theorem State.raiseFatal_out (c : Cause) (op : Word) : (s.raiseFatal c op).out = some (.fatal c s.instrAddr (some op)) := rfl
@[simp] theorem State.raiseFatal_input (c : Cause) (op : Word) : (s.raiseFatal c op).input = s.input := rfl
@[simp] theorem State.raiseFatal_loadable (c : Cause) (op : Word) : (s.raiseFatal c op).loadable = s.loadable := rfl
@[simp] theorem State.raiseFatal_pending (c : Cause) (op : Word) : (s.raiseFatal c op).pending = s.pending := rfl
@[simp] theorem State.raiseFatal_draws (c : Cause) (op : Word) : (s.raiseFatal c op).draws = s.draws := rfl
@[simp] theorem State.raiseFatal_getV (c : Cause) (op : Word) (q : Reg) : (s.raiseFatal c op).getV q = s.getV q := rfl
@[simp] theorem State.raiseFatal_readByte (c : Cause) (op : Word) (k : Nat) : (s.raiseFatal c op).readByte k = s.readByte k := rfl

/-! ### logDiag -/

@[simp] theorem State.logDiag_cfg (c : DiagCode) (op : Word) : (s.logDiag c op).cfg = s.cfg := rfl
@[simp] theorem State.logDiag_mem (c : DiagCode) (op : Word) : (s.logDiag c op).mem = s.mem := rfl
@[simp] theorem State.logDiag_v (c : DiagCode) (op : Word) : (s.logDiag c op).v = s.v := rfl
@[simp] theorem State.logDiag_i (c : DiagCode) (op : Word) : (s.logDiag c op).i = s.i := rfl
@[simp] theorem State.logDiag_pc (c : DiagCode) (op : Word) : (s.logDiag c op).pc = s.pc := rfl
@[simp] theorem State.logDiag_stack (c : DiagCode) (op : Word) : (s.logDiag c op).stack = s.stack := rfl
@[simp] theorem State.logDiag_dt (c : DiagCode) (op : Word) : (s.logDiag c op).dt = s.dt := rfl
@[simp] theorem State.logDiag_st (c : DiagCode) (op : Word) : (s.logDiag c op).st = s.st := rfl
@[simp] theorem State.logDiag_fb (c : DiagCode) (op : Word) : (s.logDiag c op).fb = s.fb := rfl
@[simp] theorem State.logDiag_run (c : DiagCode) (op : Word) : (s.logDiag c op).run = s.run := rfl
@[simp] theorem State.logDiag_soundOn (c : DiagCode) (op : Word) : (s.logDiag c op).soundOn = s.soundOn := rfl
@[simp] theorem State.logDiag_out (c : DiagCode) (op : Word) : (s.logDiag c op).out = some (.diag c s.instrAddr op) := rfl
@[simp] theorem State.logDiag_input (c : DiagCode) (op : Word) : (s.logDiag c op).input = s.input := rfl
@[simp] theorem State.logDiag_loadable (c : DiagCode) (op : Word) : (s.logDiag c op).loadable = s.loadable := rfl
@[simp] theorem State.logDiag_pending (c : DiagCode) (op : Word) : (s.logDiag c op).pending = s.pending := rfl
@[simp] theorem State.logDiag_draws (c : DiagCode) (op : Word) : (s.logDiag c op).draws = s.draws := rfl
@[simp] theorem State.logDiag_getV (c : DiagCode) (op : Word) (q : Reg) : (s.logDiag c op).getV q = s.getV q := rfl
@[simp] theorem State.logDiag_readByte (c : DiagCode) (op : Word) (k : Nat) : (s.logDiag c op).readByte k = s.readByte k := rfl

/-! ### raiseFetchFault -/

@[simp] theorem State.raiseFetchFault_cfg : (s.raiseFetchFault).cfg = s.cfg := rfl
@[simp] theorem State.raiseFetchFault_mem : (s.raiseFetchFault).mem = s.mem := rfl
@[simp] theorem State.raiseFetchFault_v : (s.raiseFetchFault).v = s.v := rfl
@[simp] theorem State.raiseFetchFault_i : (s.raiseFetchFault).i = s.i := rfl
@[simp] theorem State.raiseFetchFault_pc : (s.raiseFetchFault).pc = s.pc := rfl
@[simp] theorem State.raiseFetchFault_stack : (s.raiseFetchFault).stack = s.stack := rfl
@[simp] theorem State.raiseFetchFault_dt : (s.raiseFetchFault).dt = s.dt := rfl
@[simp] theorem State.raiseFetchFault_st : (s.raiseFetchFault).st = s.st := rfl
@[simp] theorem State.raiseFetchFault_fb : (s.raiseFetchFault).fb = s.fb := rfl
@[simp] theorem State.raiseFetchFault_run : (s.raiseFetchFault).run = .halted .fetchFault s.pc none := rfl
@[simp] theorem State.raiseFetchFault_soundOn : (s.raiseFetchFault).soundOn = s.soundOn := rfl
@[simp] theorem State.raiseFetchFault_out : (s.raiseFetchFault).out = some (.fatal .fetchFault s.pc none) := rfl
@[simp] theorem State.raiseFetchFault_input : (s.raiseFetchFault).input = s.input := rfl
@[simp] theorem State.raiseFetchFault_loadable : (s.raiseFetchFault).loadable = s.loadable := rfl
@[simp] theorem State.raiseFetchFault_pending : (s.raiseFetchFault).pending = s.pending := rfl
@[simp] theorem State.raiseFetchFault_draws : (s.raiseFetchFault).draws = s.draws := rfl
@[simp] theorem State.raiseFetchFault_getV (q : Reg) : (s.raiseFetchFault).getV q = s.getV q := rfl
@[simp] theorem State.raiseFetchFault_readByte (k : Nat) : (s.raiseFetchFault).readByte k = s.readByte k := rfl

/-! ### advancePc -/

@[simp] theorem State.advancePc_cfg : (s.advancePc).cfg = s.cfg := rfl
@[simp] theorem State.advancePc_mem : (s.advancePc).mem = s.mem := rfl
@[simp] theorem State.advancePc_v : (s.advancePc).v = s.v := rfl
@[simp] theorem State.advancePc_i : (s.advancePc).i = s.i := rfl
@[simp] theorem State.advancePc_pc : (s.advancePc).pc = s.pc + 2 := rfl
@[simp] theorem State.advancePc_stack : (s.advancePc).stack = s.stack := rfl
@[simp] theorem State.advancePc_dt : (s.advancePc).dt = s.dt := rfl
@[simp] theorem State.advancePc_st : (s.advancePc).st = s.st := rfl
@[simp] theorem State.advancePc_fb : (s.advancePc).fb = s.fb := rfl
@[simp] theorem State.advancePc_run : (s.advancePc).run = s.run := rfl
@[simp] theorem State.advancePc_soundOn : (s.advancePc).soundOn = s.soundOn := rfl
@[simp] theorem State.advancePc_out : (s.advancePc).out = s.out := rfl
@[simp] theorem State.advancePc_input : (s.advancePc).input = s.input := rfl
@[simp] theorem State.advancePc_loadable : (s.advancePc).loadable = s.loadable := rfl
@[simp] theorem State.advancePc_pending : (s.advancePc).pending = s.pending := rfl
@[simp] theorem State.advancePc_draws : (s.advancePc).draws = s.draws := rfl
@[simp] theorem State.advancePc_getV (q : Reg) : (s.advancePc).getV q = s.getV q := rfl
@[simp] theorem State.advancePc_readByte (k : Nat) : (s.advancePc).readByte k = s.readByte k := rfl

/-! ### setFlag -/

@[simp] theorem State.setFlag_cfg (f : Bool) : (s.setFlag f).cfg = s.cfg := rfl
@[simp] theorem State.setFlag_mem (f : Bool) : (s.setFlag f).mem = s.mem := rfl
@[simp] theorem State.setFlag_v (f : Bool) : (s.setFlag f).v = s.v.set vf (flagByte f) := rfl
@[simp] theorem State.setFlag_i (f : Bool) : (s.setFlag f).i = s.i := rfl
@[simp] theorem State.setFlag_pc (f : Bool) : (s.setFlag f).pc = s.pc := rfl
@[simp] theorem State.setFlag_stack (f : Bool) : (s.setFlag f).stack = s.stack := rfl
@[simp] theorem State.setFlag_dt (f : Bool) : (s.setFlag f).dt = s.dt := rfl
@[simp] theorem State.setFlag_st (f : Bool) : (s.setFlag f).st = s.st := rfl
@[simp] theorem State.setFlag_fb (f : Bool) : (s.setFlag f).fb = s.fb := rfl
@[simp] theorem State.setFlag_run (f : Bool) : (s.setFlag f).run = s.run := rfl
@[simp] theorem State.setFlag_soundOn (f : Bool) : (s.setFlag f).soundOn = s.soundOn := rfl
@[simp] theorem State.setFlag_out (f : Bool) : (s.setFlag f).out = s.out := rfl
@[simp] theorem State.setFlag_input (f : Bool) : (s.setFlag f).input = s.input := rfl
@[simp] theorem State.setFlag_loadable (f : Bool) : (s.setFlag f).loadable = s.loadable := rfl
@[simp] theorem State.setFlag_pending (f : Bool) : (s.setFlag f).pending = s.pending := rfl
@[simp] theorem State.setFlag_draws (f : Bool) : (s.setFlag f).draws = s.draws := rfl
@[simp] theorem State.setFlag_readByte (f : Bool) (k : Nat) : (s.setFlag f).readByte k = s.readByte k := rfl

/-! ### setResultAndFlag -/

@[simp] theorem State.setResultAndFlag_cfg (x : Reg) (b : Byte) (f : Bool) : (s.setResultAndFlag x b f).cfg = s.cfg := rfl
@[simp] theorem State.setResultAndFlag_mem (x : Reg) (b : Byte) (f : Bool) : (s.setResultAndFlag x b f).mem = s.mem := rfl
@[simp] theorem State.setResultAndFlag_v (x : Reg) (b : Byte) (f : Bool) : (s.setResultAndFlag x b f).v = (s.v.set x b).set vf (flagByte f) := rfl
@[simp] theorem State.setResultAndFlag_i (x : Reg) (b : Byte) (f : Bool) : (s.setResultAndFlag x b f).i = s.i := rfl
@[simp] theorem State.setResultAndFlag_pc (x : Reg) (b : Byte) (f : Bool) : (s.setResultAndFlag x b f).pc = s.pc := rfl
@[simp] theorem State.setResultAndFlag_stack (x : Reg) (b : Byte) (f : Bool) : (s.setResultAndFlag x b f).stack = s.stack := rfl
@[simp] theorem State.setResultAndFlag_dt (x : Reg) (b : Byte) (f : Bool) : (s.setResultAndFlag x b f).dt = s.dt := rfl
@[simp] theorem State.setResultAndFlag_st (x : Reg) (b : Byte) (f : Bool) : (s.setResultAndFlag x b f).st = s.st := rfl
@[simp] theorem State.setResultAndFlag_fb (x : Reg) (b : Byte) (f : Bool) : (s.setResultAndFlag x b f).fb = s.fb := rfl
@[simp] theorem State.setResultAndFlag_run (x : Reg) (b : Byte) (f : Bool) : (s.setResultAndFlag x b f).run = s.run := rfl
@[simp] theorem State.setResultAndFlag_soundOn (x : Reg) (b : Byte) (f : Bool) : (s.setResultAndFlag x b f).soundOn = s.soundOn := rfl
@[simp] theorem State.setResultAndFlag_out (x : Reg) (b : Byte) (f : Bool) : (s.setResultAndFlag x b f).out = s.out := rfl
@[simp] theorem State.setResultAndFlag_input (x : Reg) (b : Byte) (f : Bool) : (s.setResultAndFlag x b f).input = s.input := rfl
@[simp] theorem State.setResultAndFlag_loadable (x : Reg) (b : Byte) (f : Bool) : (s.setResultAndFlag x b f).loadable = s.loadable := rfl
@[simp] theorem State.setResultAndFlag_pending (x : Reg) (b : Byte) (f : Bool) : (s.setResultAndFlag x b f).pending = s.pending := rfl
@[simp] theorem State.setResultAndFlag_draws (x : Reg) (b : Byte) (f : Bool) : (s.setResultAndFlag x b f).draws = s.draws := rfl
@[simp] theorem State.setResultAndFlag_readByte (x : Reg) (b : Byte) (f : Bool) (k : Nat) : (s.setResultAndFlag x b f).readByte k = s.readByte k := rfl

/-! ### loadBlock -/

@[simp] theorem State.loadBlock_cfg (x : Reg) (a : Nat) : (s.loadBlock x a).cfg = s.cfg := rfl
@[simp] theorem State.loadBlock_mem (x : Reg) (a : Nat) : (s.loadBlock x a).mem = s.mem := rfl
@[simp] theorem State.loadBlock_i (x : Reg) (a : Nat) : (s.loadBlock x a).i = s.i := rfl
@[simp] theorem State.loadBlock_pc (x : Reg) (a : Nat) : (s.loadBlock x a).pc = s.pc := rfl
@[simp] theorem State.loadBlock_stack (x : Reg) (a : Nat) : (s.loadBlock x a).stack = s.stack := rfl
@[simp] theorem State.loadBlock_dt (x : Reg) (a : Nat) : (s.loadBlock x a).dt = s.dt := rfl
@[simp] theorem State.loadBlock_st (x : Reg) (a : Nat) : (s.loadBlock x a).st = s.st := rfl
@[simp] theorem State.loadBlock_fb (x : Reg) (a : Nat) : (s.loadBlock x a).fb = s.fb := rfl
@[simp] theorem State.loadBlock_run (x : Reg) (a : Nat) : (s.loadBlock x a).run = s.run := rfl
@[simp] theorem State.loadBlock_soundOn (x : Reg) (a : Nat) : (s.loadBlock x a).soundOn = s.soundOn := rfl
@[simp] theorem State.loadBlock_out (x : Reg) (a : Nat) : (s.loadBlock x a).out = s.out := rfl
@[simp] theorem State.loadBlock_input (x : Reg) (a : Nat) : (s.loadBlock x a).input = s.input := rfl
@[simp] theorem State.loadBlock_loadable (x : Reg) (a : Nat) : (s.loadBlock x a).loadable = s.loadable := rfl
@[simp] theorem State.loadBlock_pending (x : Reg) (a : Nat) : (s.loadBlock x a).pending = s.pending := rfl
@[simp] theorem State.loadBlock_draws (x : Reg) (a : Nat) : (s.loadBlock x a).draws = s.draws := rfl
@[simp] theorem State.loadBlock_readByte (x : Reg) (a : Nat) (k : Nat) : (s.loadBlock x a).readByte k = s.readByte k := rfl

/-! ### skipIf -/

@[simp] theorem State.skipIf_cfg (c : Bool) : (s.skipIf c).cfg = s.cfg := rfl
@[simp] theorem State.skipIf_mem (c : Bool) : (s.skipIf c).mem = s.mem := rfl
@[simp] theorem State.skipIf_v (c : Bool) : (s.skipIf c).v = s.v := rfl
@[simp] theorem State.skipIf_i (c : Bool) : (s.skipIf c).i = s.i := rfl
@[simp] theorem State.skipIf_pc (c : Bool) : (s.skipIf c).pc = if c then s.pc + 2 else s.pc := rfl
@[simp] theorem State.skipIf_stack (c : Bool) : (s.skipIf c).stack = s.stack := rfl
@[simp] theorem State.skipIf_dt (c : Bool) : (s.skipIf c).dt = s.dt := rfl
@[simp] theorem State.skipIf_st (c : Bool) : (s.skipIf c).st = s.st := rfl
@[simp] theorem State.skipIf_fb (c : Bool) : (s.skipIf c).fb = s.fb := rfl
@[simp] theorem State.skipIf_run (c : Bool) : (s.skipIf c).run = s.run := rfl
@[simp] theorem State.skipIf_soundOn (c : Bool) : (s.skipIf c).soundOn = s.soundOn := rfl
@[simp] theorem State.skipIf_out (c : Bool) : (s.skipIf c).out = s.out := rfl
@[simp] theorem State.skipIf_input (c : Bool) : (s.skipIf c).input = s.input := rfl
@[simp] theorem State.skipIf_loadable (c : Bool) : (s.skipIf c).loadable = s.loadable := rfl
@[simp] theorem State.skipIf_pending (c : Bool) : (s.skipIf c).pending = s.pending := rfl
@[simp] theorem State.skipIf_draws (c : Bool) : (s.skipIf c).draws = s.draws := rfl
@[simp] theorem State.skipIf_getV (c : Bool) (q : Reg) : (s.skipIf c).getV q = s.getV q := rfl
@[simp] theorem State.skipIf_readByte (c : Bool) (k : Nat) : (s.skipIf c).readByte k = s.readByte k := rfl

/-! ### beginStep -/

@[simp] theorem State.beginStep_cfg (j : StepInput) : (s.beginStep j).cfg = s.cfg := rfl
@[simp] theorem State.beginStep_mem (j : StepInput) : (s.beginStep j).mem = s.mem := rfl
@[simp] theorem State.beginStep_v (j : StepInput) : (s.beginStep j).v = s.v := rfl
@[simp] theorem State.beginStep_i (j : StepInput) : (s.beginStep j).i = s.i := rfl
@[simp] theorem State.beginStep_pc (j : StepInput) : (s.beginStep j).pc = s.pc := rfl
@[simp] theorem State.beginStep_stack (j : StepInput) : (s.beginStep j).stack = s.stack := rfl
@[simp] theorem State.beginStep_dt (j : StepInput) : (s.beginStep j).dt = s.dt := rfl
@[simp] theorem State.beginStep_st (j : StepInput) : (s.beginStep j).st = s.st := rfl
@[simp] theorem State.beginStep_fb (j : StepInput) : (s.beginStep j).fb = s.fb := rfl
@[simp] theorem State.beginStep_run (j : StepInput) : (s.beginStep j).run = s.run := rfl
@[simp] theorem State.beginStep_soundOn (j : StepInput) : (s.beginStep j).soundOn = s.soundOn := rfl
@[simp] theorem State.beginStep_out (j : StepInput) : (s.beginStep j).out = none := rfl
@[simp] theorem State.beginStep_input (j : StepInput) : (s.beginStep j).input = j := rfl
@[simp] theorem State.beginStep_loadable (j : StepInput) : (s.beginStep j).loadable = false := rfl
@[simp] theorem State.beginStep_pending (j : StepInput) : (s.beginStep j).pending = s.pending := rfl
@[simp] theorem State.beginStep_draws (j : StepInput) : (s.beginStep j).draws = s.draws := rfl
@[simp] theorem State.beginStep_getV (j : StepInput) (q : Reg) : (s.beginStep j).getV q = s.getV q := rfl
@[simp] theorem State.beginStep_readByte (j : StepInput) (k : Nat) : (s.beginStep j).readByte k = s.readByte k := rfl

end Sys2Proof.Machine
end

