-- ==== Sys2Proof/Laws/Registers.lean ====
section
/-! SUPPORT. Reading a general register after the shared register operations: the result, the flag, both with the flag last
(R22), and the block load. -/

namespace Sys2Proof.Machine

variable (s : State)

@[simp] theorem State.getV_setV (r q : Reg) (b : Byte) : (s.setV r b).getV q = if q = r then b else s.getV q := by
  simp only [State.getV, State.setV, Fin.getElem_fin, Vector.getElem_set, Fin.val_inj, eq_comm]

theorem State.getV_setV_same (r : Reg) (b : Byte) : (s.setV r b).getV r = b := by simp

theorem State.getV_setV_ne {r q : Reg} (h : q ≠ r) (b : Byte) : (s.setV r b).getV q = s.getV q := by simp [h]

@[simp] theorem State.getV_setFlag (f : Bool) (q : Reg) :
    (s.setFlag f).getV q = if q = vf then flagByte f else s.getV q := s.getV_setV vf q (flagByte f)

/-- The spec of `setResultAndFlag`: VF holds the flag whatever X is; the result stands in X otherwise (R22, R100). -/
@[simp] theorem State.getV_setResultAndFlag (x q : Reg) (b : Byte) (f : Bool) :
    (s.setResultAndFlag x b f).getV q = if q = vf then flagByte f else if q = x then b else s.getV q := by
  simp [State.setResultAndFlag]

/-- `setResultAndFlag` writes general registers only. -/
theorem State.setResultAndFlag_frame (x : Reg) (b : Byte) (f : Bool) :
    s.setResultAndFlag x b f = { s with v := (s.setResultAndFlag x b f).v } := rfl

/-- The spec of `loadBlock`: V0..VX from memory, the others as before (R235). -/
@[simp] theorem State.getV_loadBlock (x q : Reg) (a : Nat) :
    (s.loadBlock x a).getV q = if q ≤ x then s.readByte (a + q.val) else s.getV q := by
  simp [State.getV, State.loadBlock]

@[simp] theorem flagByte_true : flagByte true = 1 := rfl
@[simp] theorem flagByte_false : flagByte false = 0 := rfl

/-- The register block of FX55 has X + 1 bytes (R234). -/
@[simp] theorem State.regBlock_length (x : Reg) : (s.regBlock x).length = regCount x := by
  simp [State.regBlock, regCount]

/-- Byte `k` of the register block is V[k]. -/
theorem State.regBlock_getElem? (x r : Reg) (h : r ≤ x) : (s.regBlock x)[r.val]? = some (s.getV r) := by
  have : r.val < regCount x := Nat.lt_succ_of_le h
  simp [State.regBlock, this, State.getV]

@[simp] theorem bcdDigits_length (b : Byte) : (bcdDigits b).length = 3 := rfl

end Sys2Proof.Machine
end

