-- ==== Sys2Proof/Laws/Memory.lean ====
section
/-! SUPPORT. The laws of memory: a read after a write, that every operation keeps the canonical form, and the spec of
`storeBytes`, which every storing instruction and `Load` go through. -/

namespace Sys2Proof.Machine

/-! ### One byte -/

theorem Memory.read_of_all_gt (bg : Nat → Byte) {m : Memory} {a : Nat} (h : ∀ c ∈ m, a < c.1) :
    Memory.read bg m a = bg a := by
  induction m with
  | nil => rfl
  | cons c m ih =>
    have := h c (by simp)
    simp only [Memory.read, if_neg (Nat.ne_of_lt this)]
    exact ih fun d hd => h d (by simp [hd])

/-- A read after a write, on a memory with rising addresses. -/
theorem Memory.read_write (bg : Nat → Byte) {m : Memory} (hm : m.Pairwise (fun p q => p.1 < q.1)) (a k : Nat) (b : Byte) :
    Memory.read bg (Memory.write bg m a b) k = if k = a then b else Memory.read bg m k := by
  induction m with
  | nil => by_cases h : b = bg a <;> by_cases hk : k = a <;> simp_all [Memory.write, Memory.read]
  | cons c m ih =>
    obtain ⟨c1, c2⟩ := c
    rw [List.pairwise_cons] at hm
    have hgt : ∀ d ∈ m, c1 < d.1 := fun d hd => hm.1 d hd
    by_cases h1 : a < c1
    · have hread : Memory.read bg ((c1, c2) :: m) a = bg a :=
        Memory.read_of_all_gt bg fun d hd => by
          rcases List.mem_cons.1 hd with rfl | hd
          · exact h1
          · exact Nat.lt_trans h1 (hgt d hd)
      by_cases hb : b = bg a
      · by_cases hk : k = a
        · subst hk; simp only [Memory.write, if_pos h1, if_true, hread, hb]
        · simp only [Memory.write, if_pos h1, if_pos hb, if_neg hk]
      · simp only [Memory.write, if_pos h1, if_neg hb]
        rw [Memory.read]
    · by_cases h2 : a = c1
      · subst h2
        by_cases hb : b = bg a
        · by_cases hk : k = a
          · subst hk
            simp [Memory.write, hb, Memory.read_of_all_gt bg hgt]
          · simp [Memory.write, hb, Memory.read, hk]
        · by_cases hk : k = a <;> simp [Memory.write, hb, Memory.read, hk]
      · simp only [Memory.write, if_neg h1, if_neg h2, Memory.read]
        by_cases hk : k = c1
        · subst hk; simp [Ne.symm h2]
        · simp only [if_neg hk, ih hm.2]

/-- Where a write leaves its cells. -/
theorem Memory.mem_write {bg : Nat → Byte} {m : Memory} {a : Nat} {b : Byte} {c : Host.Cell}
    (h : c ∈ Memory.write bg m a b) : (c = (a, b) ∧ b ≠ bg a) ∨ c ∈ m := by
  induction m with
  | nil =>
    by_cases hb : b = bg a
    · simp [Memory.write, hb] at h
    · simp [Memory.write, hb] at h; exact .inl ⟨h, hb⟩
  | cons d m ih =>
    obtain ⟨d1, d2⟩ := d
    simp only [Memory.write] at h
    split at h
    · split at h
      · exact .inr h
      · rcases List.mem_cons.1 h with h | h
        · exact .inl ⟨h, by assumption⟩
        · exact .inr h
    · split at h
      · split at h
        · exact .inr (List.mem_cons_of_mem _ h)
        · rcases List.mem_cons.1 h with h | h
          · exact .inl ⟨h, by assumption⟩
          · exact .inr (List.mem_cons_of_mem _ h)
      · rcases List.mem_cons.1 h with h | h
        · exact .inr (h ▸ List.mem_cons_self ..)
        · exact (ih h).imp id (List.mem_cons_of_mem _)

theorem Memory.pairwise_write {bg : Nat → Byte} {m : Memory} (hm : m.Pairwise (fun p q => p.1 < q.1)) (a : Nat) (b : Byte) :
    (Memory.write bg m a b).Pairwise (fun p q => p.1 < q.1) := by
  induction m with
  | nil => by_cases hb : b = bg a <;> simp [Memory.write, hb]
  | cons d m ih =>
    obtain ⟨d1, d2⟩ := d
    have hm' := List.pairwise_cons.1 hm
    simp only [Memory.write]
    split
    · split
      · exact hm
      · refine List.pairwise_cons.2 ⟨fun c hc => ?_, hm⟩
        rcases List.mem_cons.1 hc with rfl | hc
        · assumption
        · exact Nat.lt_trans (by assumption) (hm'.1 c hc)
    · split
      · split
        · exact hm'.2
        · exact List.pairwise_cons.2 ⟨fun c hc => by have := hm'.1 c hc; simp_all, hm'.2⟩
      · refine List.pairwise_cons.2 ⟨fun c hc => ?_, ih hm'.2⟩
        rcases Memory.mem_write hc with ⟨rfl, -⟩ | hc
        · simp only; omega
        · exact hm'.1 c hc

/-- A write inside memory keeps the canonical form. -/
theorem Memory.wf_write {bg : Nat → Byte} {m : Memory} (hm : Memory.wf bg m) {a : Nat} (ha : a ≤ lastAddr) (b : Byte) :
    Memory.wf bg (Memory.write bg m a b) := by
  refine ⟨Memory.pairwise_write hm.1 a b, fun c hc => ?_⟩
  rcases Memory.mem_write hc with ⟨rfl, hb⟩ | hc
  · exact ⟨ha, hb⟩
  · exact hm.2 c hc

theorem Memory.wf_nil (bg : Nat → Byte) : Memory.wf bg [] := by simp [Memory.wf]

/-- Reset memory has the canonical form. -/
theorem State.resetOf_mem_wf (cfg : Config) :
    Memory.wf (resetByte (State.resetOf cfg).cfg) (State.resetOf cfg).mem := Memory.wf_nil _

/-- A memory of rising addresses: what `read_write` needs. -/
abbrev State.memRising (s : State) : Prop := s.mem.Pairwise (fun p q => p.1 < q.1)

theorem State.readByte_writeByte {s : State} (hs : s.memRising) (a k : Nat) (b : Byte) :
    (s.writeByte a b).readByte k = if k = a then b else s.readByte k :=
  Memory.read_write (resetByte s.cfg) hs a k b

/-- A write leaves every other byte alone, whatever the form of the memory. -/
theorem Memory.read_write_ne (bg : Nat → Byte) (m : Memory) {a k : Nat} (h : k ≠ a) (b : Byte) :
    Memory.read bg (Memory.write bg m a b) k = Memory.read bg m k := by
  induction m with
  | nil => by_cases hb : b = bg a <;> simp [Memory.write, Memory.read, hb, h]
  | cons d m ih =>
    obtain ⟨d1, d2⟩ := d
    simp only [Memory.write]
    split
    · split <;> simp [Memory.read, h]
    · split
      · rename_i h2; subst h2
        split <;> simp [Memory.read, h]
      · simp [Memory.read, ih]

/-! ### Consecutive bytes -/

theorem State.storeBytes_memRising {s : State} (hs : s.memRising) (a : Nat) (bs : List Byte) :
    (s.storeBytes a bs).memRising := by
  induction bs generalizing s a with
  | nil => exact hs
  | cons b bs ih => exact ih (Memory.pairwise_write hs a b) _

/-- `storeBytes` changes memory alone. -/
theorem State.storeBytes_frame (s : State) (a : Nat) (bs : List Byte) :
    s.storeBytes a bs = { s with mem := (s.storeBytes a bs).mem } := by
  induction bs generalizing s a with
  | nil => rfl
  | cons b bs ih =>
    have := ih (s.writeByte a b) (a + 1)
    simp only [State.storeBytes]
    rw [this]
    rfl

@[simp] theorem State.storeBytes_cfg (s : State) (a : Nat) (bs : List Byte) : (s.storeBytes a bs).cfg = s.cfg := by
  rw [s.storeBytes_frame]
@[simp] theorem State.storeBytes_v (s : State) (a : Nat) (bs : List Byte) : (s.storeBytes a bs).v = s.v := by
  rw [s.storeBytes_frame]
@[simp] theorem State.storeBytes_i (s : State) (a : Nat) (bs : List Byte) : (s.storeBytes a bs).i = s.i := by
  rw [s.storeBytes_frame]
@[simp] theorem State.storeBytes_pc (s : State) (a : Nat) (bs : List Byte) : (s.storeBytes a bs).pc = s.pc := by
  rw [s.storeBytes_frame]
@[simp] theorem State.storeBytes_stack (s : State) (a : Nat) (bs : List Byte) : (s.storeBytes a bs).stack = s.stack := by
  rw [s.storeBytes_frame]
@[simp] theorem State.storeBytes_dt (s : State) (a : Nat) (bs : List Byte) : (s.storeBytes a bs).dt = s.dt := by
  rw [s.storeBytes_frame]
@[simp] theorem State.storeBytes_st (s : State) (a : Nat) (bs : List Byte) : (s.storeBytes a bs).st = s.st := by
  rw [s.storeBytes_frame]
@[simp] theorem State.storeBytes_fb (s : State) (a : Nat) (bs : List Byte) : (s.storeBytes a bs).fb = s.fb := by
  rw [s.storeBytes_frame]
@[simp] theorem State.storeBytes_run (s : State) (a : Nat) (bs : List Byte) : (s.storeBytes a bs).run = s.run := by
  rw [s.storeBytes_frame]
@[simp] theorem State.storeBytes_soundOn (s : State) (a : Nat) (bs : List Byte) : (s.storeBytes a bs).soundOn = s.soundOn := by
  rw [s.storeBytes_frame]
@[simp] theorem State.storeBytes_out (s : State) (a : Nat) (bs : List Byte) : (s.storeBytes a bs).out = s.out := by
  rw [s.storeBytes_frame]
@[simp] theorem State.storeBytes_input (s : State) (a : Nat) (bs : List Byte) : (s.storeBytes a bs).input = s.input := by
  rw [s.storeBytes_frame]
@[simp] theorem State.storeBytes_loadable (s : State) (a : Nat) (bs : List Byte) : (s.storeBytes a bs).loadable = s.loadable := by
  rw [s.storeBytes_frame]
@[simp] theorem State.storeBytes_pending (s : State) (a : Nat) (bs : List Byte) : (s.storeBytes a bs).pending = s.pending := by
  rw [s.storeBytes_frame]
@[simp] theorem State.storeBytes_draws (s : State) (a : Nat) (bs : List Byte) : (s.storeBytes a bs).draws = s.draws := by
  rw [s.storeBytes_frame]
@[simp] theorem State.storeBytes_getV (s : State) (a : Nat) (bs : List Byte) (r : Reg) :
    (s.storeBytes a bs).getV r = s.getV r := by rw [State.getV, State.storeBytes_v]; rfl

/-- `storeBytes` leaves every byte outside its range alone, whatever the form of the memory. -/
theorem State.readByte_storeBytes_outside (s : State) (a : Nat) (bs : List Byte) {k : Nat}
    (h : k < a ∨ a + bs.length ≤ k) : (s.storeBytes a bs).readByte k = s.readByte k := by
  induction bs generalizing s a with
  | nil => rfl
  | cons b bs ih =>
    simp only [List.length_cons] at h
    rw [State.storeBytes, ih _ _ (by omega)]
    exact Memory.read_write_ne _ _ (by omega) b

/-- Inside its range, `storeBytes` leaves the stored bytes. -/
theorem State.readByte_storeBytes_inside {s : State} (hs : s.memRising) (a : Nat) (bs : List Byte) {k : Nat} (b : Byte)
    (h : bs[k]? = some b) : (s.storeBytes a bs).readByte (a + k) = b := by
  induction bs generalizing s a k with
  | nil => simp at h
  | cons c bs ih =>
    rw [State.storeBytes]
    cases k with
    | zero =>
      simp only [List.getElem?_cons_zero, Option.some.injEq] at h
      rw [State.readByte_storeBytes_outside _ _ _ (by omega), State.readByte_writeByte hs]
      simp [h]
    | succ k =>
      have := ih (s := s.writeByte a c) (Memory.pairwise_write hs a c) (a + 1) (by simpa using h)
      rw [← this]
      congr 1
      omega

/-- `storeBytes` inside memory keeps the canonical form. -/
theorem State.storeBytes_wf {s : State} (hs : Memory.wf (resetByte s.cfg) s.mem) (a : Nat) (bs : List Byte)
    (h : a + bs.length ≤ lastAddr + 1) :
    Memory.wf (resetByte (s.storeBytes a bs).cfg) (s.storeBytes a bs).mem := by
  induction bs generalizing s a with
  | nil => exact hs
  | cons b bs ih =>
    simp only [List.length_cons] at h
    exact ih (s := s.writeByte a b) (Memory.wf_write hs (by omega) b) (a + 1) (by omega)

theorem inRange_iff (a n : Nat) : inRange a n = true ↔ n = 0 ∨ a + n ≤ 4096 := by
  cases n <;> simp [inRange, lastAddr]; omega

end Sys2Proof.Machine
end

