-- ==== Sys2Proof/Laws/Compositor.lean ====
section
/-! SUPPORT. The laws of the compositor: one pixel, one plot, one sprite row. -/

namespace Sys2Proof.Machine

theorem getLsbD_pixelMask (x : Nat) {k : Nat} (hk : k < 64) :
    (pixelMask x).getLsbD k = decide (k = 63 - x) := by
  simp only [pixelMask, BitVec.getLsbD_shiftLeft, hk, decide_true, Bool.true_and]
  by_cases h : k < 63 - x
  · simp [h]; omega
  · by_cases h2 : k = 63 - x
    · simp [h2]
    · have : k - (63 - x) ≠ 0 := by omega
      simp [h, h2, this, BitVec.getLsbD_one]

/-- A pixel after a pixel is set. -/
theorem getPixel_setPixel (fb : Framebuffer) {x y : Nat} (hx : x < 64) (hy : y < 32) (p : Bool) {x' y' : Nat} :
    getPixel (setPixel fb x y p) x' y' = if x' = x ∧ y' = y then p else getPixel fb x' y' := by
  unfold getPixel setPixel
  by_cases hy' : y' < 32
  · by_cases hx' : x' < 64
    · simp only [hy', hx', dif_pos, hx, hy, and_self, decide_true, Bool.true_and, Vector.getElem_set]
      by_cases e : y = y'
      · subst e
        have hk : 63 - x' < 64 := by omega
        have hm := getLsbD_pixelMask x hk
        have hxx : (63 - x' = 63 - x) ↔ x' = x := by omega
        cases p <;> by_cases e2 : x' = x <;> simp_all
      · simp [e, Ne.symm e]
    · have : x' ≠ x := by omega
      simp [hy', hx', this]
  · have : y' ≠ y := by omega
    simp [hy', this]

/-- Two frames are equal when their 64 by 32 pixels are. -/
theorem framebuffer_ext {f g : Framebuffer} (h : ∀ x y, x < 64 → y < 32 → getPixel f x y = getPixel g x y) : f = g := by
  apply Vector.ext
  intro y hy
  apply BitVec.eq_of_getLsbD_eq
  intro k hk
  have := h (63 - k) y (by omega) hy
  have h63 : 63 - (63 - k) = k := by omega
  have hlt : 63 - k < 64 := by omega
  simpa [getPixel, hy, h63, hlt] using this

theorem getPixel_clear (x y : Nat) : getPixel clearFramebuffer x y = false := by
  unfold getPixel clearFramebuffer; split <;> simp

/-- The spec of `plot`: one pixel is XORed, and a set pixel that meets a set sprite bit collides (R172, R176). -/
theorem getPixel_plot (c : Canvas) {px py : Nat} (hx : px < 64) (hy : py < 32) (s : Bool) (x y : Nat) :
    getPixel (plot c px py s).fb x y = (getPixel c.fb x y ^^ (decide (x = px ∧ y = py) && s)) := by
  rw [plot, getPixel_setPixel _ hx hy]
  by_cases h : x = px ∧ y = py
  · obtain ⟨rfl, rfl⟩ := h; simp
  · simp [h]

theorem plot_collision (c : Canvas) (px py : Nat) (s : Bool) :
    (plot c px py s).collision = (c.collision || (getPixel c.fb px py && s)) := rfl

/-- A sprite has no bit beyond its eight columns. -/
theorem spriteBit_of_ge (b : Byte) {k : Nat} (h : 8 ≤ k) : spriteBit b k = false := by
  simp [spriteBit]; omega

@[simp] theorem spriteBit_zero (k : Nat) : spriteBit 0 k = false := by
  simp [spriteBit]

/-- What a policy may answer for a sprite pixel: a target inside the frame, or no target (R172 to R175). -/
theorem spriteTarget_pixel {edge : SpriteEdge} {x y px py : Nat} (h : spriteTarget edge x y = .pixel px py) :
    px < 64 ∧ py < 32 := by
  cases edge <;> simp only [spriteTarget] at h
  · simp only [Target.pixel.injEq] at h; omega
  · split at h
    · simp only [Target.pixel.injEq] at h; omega
    · cases h
  · split at h
    · cases h
    · split at h
      · cases h
      · simp only [Target.pixel.injEq] at h; omega

/-! ### A blit is a list of plots

`rowPlots` and `spritePlots` list the target pixels of a blit with their sprite bits; a blit that is not fatal plots them one
after another, and since no target is reached twice the result can be read off the list. -/

/-- A target pixel and the sprite bit that lands on it. -/
abbrev Plot := Nat × Nat × Bool

/-- One plot of a list. -/
def Canvas.plotOne (c : Canvas) (q : Plot) : Canvas := plot c q.1 q.2.1 q.2.2

/-- The plots of one sprite row through the column offsets `ks`. -/
def rowPlots (edge : SpriteEdge) (b : Byte) (x0 y : Nat) : List Nat → List Plot
  | [] => []
  | k :: ks =>
    match spriteTarget edge (x0 + k) y with
    | .pixel px py => (px, py, spriteBit b k) :: rowPlots edge b x0 y ks
    | .skip => rowPlots edge b x0 y ks
    | .endRow | .fatal => []

/-- The plots of a sprite from row `y` downwards. -/
def spritePlots (edge : SpriteEdge) (x0 : Nat) : Nat → List Byte → List Plot
  | _, [] => []
  | y, b :: bs => rowPlots edge b x0 y (List.range 8) ++ spritePlots edge x0 (y + 1) bs

/-- A row is fatal under `Reference` below row 31 alone (R175). -/
theorem spriteTarget_fatal_iff (edge : SpriteEdge) (x y : Nat) :
    spriteTarget edge x y = .fatal ↔ edge = .reference ∧ y > 31 := by
  cases edge
  · simp [spriteTarget]
  · simp only [spriteTarget]; split_ifs <;> simp
  · by_cases hy : y > 31
    · simp [spriteTarget, hy]
    · simp only [spriteTarget, if_neg hy]; split_ifs <;> simp [hy]

/-- The spec of `blitRow`. -/
theorem blitRow_eq (edge : SpriteEdge) (b : Byte) (x0 y : Nat) (ks : List Nat) (c : Canvas)
    (h : ¬ (edge = .reference ∧ y > 31)) :
    blitRow edge b x0 y ks c = some ((rowPlots edge b x0 y ks).foldl Canvas.plotOne c) := by
  induction ks generalizing c with
  | nil => rfl
  | cons k ks ih =>
    simp only [blitRow, rowPlots]
    cases ht : spriteTarget edge (x0 + k) y with
    | pixel px py => exact ih (plot c px py (spriteBit b k))
    | skip => simpa using ih c
    | endRow => rfl
    | fatal => exact absurd ((spriteTarget_fatal_iff ..).1 ht) h

theorem blitRow_fatal (b : Byte) (x0 y k : Nat) (ks : List Nat) (c : Canvas) (h : y > 31) :
    blitRow .reference b x0 y (k :: ks) c = none := by
  simp [blitRow, spriteTarget, h]

/-- The spec of `blitRows`: fatal, or the plots one after another (R172, R175). -/
theorem blitRows_eq (edge : SpriteEdge) (x0 y : Nat) (spr : List Byte) (c : Canvas) :
    blitRows edge x0 y spr c =
      if edge = .reference ∧ spr ≠ [] ∧ y + spr.length > 32 then none
      else some ((spritePlots edge x0 y spr).foldl Canvas.plotOne c) := by
  induction spr generalizing y c with
  | nil => simp [blitRows, spritePlots]
  | cons b bs ih =>
    simp only [blitRows, spritePlots, List.length_cons, List.foldl_append]
    by_cases hf : edge = .reference ∧ y > 31
    · obtain ⟨rfl, hy⟩ := hf
      rw [show List.range 8 = 0 :: [1, 2, 3, 4, 5, 6, 7] from rfl, blitRow_fatal _ _ _ _ _ _ hy, if_pos]
      exact ⟨rfl, by simp, by omega⟩
    · rw [blitRow_eq _ _ _ _ _ _ hf]
      simp only [ih]
      by_cases he : edge = .reference
      · subst he
        have : ¬ y > 31 := fun h => hf ⟨rfl, h⟩
        cases bs with
        | nil => simp only [List.length_nil, ne_eq]; rw [if_neg (by simp), if_neg (by simp; omega)]
        | cons d ds => simp [show y + 1 + (ds.length + 1) = y + (ds.length + 1 + 1) by omega]
      · simp [he]

/-- Plots that reach no pixel twice: each pixel is XORed with the one bit that lands on it. -/
theorem getPixel_foldl_plot {l : List Plot} (hin : ∀ q ∈ l, q.1 < 64 ∧ q.2.1 < 32)
    (hnd : (l.map fun q => (q.1, q.2.1)).Nodup) (c : Canvas) (x y : Nat) :
    getPixel (l.foldl Canvas.plotOne c).fb x y =
      (getPixel c.fb x y ^^ l.any fun q => decide (q.1 = x ∧ q.2.1 = y) && q.2.2) := by
  induction l generalizing c with
  | nil => simp
  | cons q l ih =>
    obtain ⟨px, py, s⟩ := q
    have hq := hin (px, py, s) (by simp)
    simp only [List.map_cons, List.nodup_cons] at hnd
    rw [List.foldl_cons, ih (fun q h => hin q (by simp [h])) hnd.2, Canvas.plotOne, getPixel_plot _ hq.1 hq.2]
    simp only [List.any_cons]
    by_cases h : px = x ∧ py = y
    · obtain ⟨rfl, rfl⟩ := h
      have : (l.any fun q => decide (q.1 = px ∧ q.2.1 = py) && q.2.2) = false := by
        rw [List.any_eq_false]
        intro q hq'
        have : ¬ (q.1 = px ∧ q.2.1 = py) := fun e =>
          hnd.1 (List.mem_map.2 ⟨q, hq', by simp [e.1, e.2]⟩)
        simp [this]
      rw [this]; simp
    · have h' : ¬ (x = px ∧ y = py) := fun e => h ⟨e.1.symm, e.2.symm⟩
      simp [h, h']

/-- Plots that reach no pixel twice: a collision is a set pixel of the frame before, met by a set bit (R176). -/
theorem foldl_plot_collision {l : List Plot} (hin : ∀ q ∈ l, q.1 < 64 ∧ q.2.1 < 32)
    (hnd : (l.map fun q => (q.1, q.2.1)).Nodup) (c : Canvas) :
    (l.foldl Canvas.plotOne c).collision = (c.collision || l.any fun q => getPixel c.fb q.1 q.2.1 && q.2.2) := by
  induction l generalizing c with
  | nil => simp
  | cons q l ih =>
    obtain ⟨px, py, s⟩ := q
    have hq := hin (px, py, s) (by simp)
    simp only [List.map_cons, List.nodup_cons] at hnd
    rw [List.foldl_cons, ih (fun q h => hin q (by simp [h])) hnd.2, Canvas.plotOne, plot_collision, List.any_cons,
      Bool.or_assoc]
    congr 2
    rw [Bool.eq_iff_iff, List.any_eq_true, List.any_eq_true]
    refine exists_congr fun q => and_congr_right fun hq' => ?_
    have : ¬ (q.1 = px ∧ q.2.1 = py) := fun e => hnd.1 (List.mem_map.2 ⟨q, hq', by simp [e.1, e.2]⟩)
    rw [getPixel_plot _ hq.1 hq.2]
    simp [this]

end Sys2Proof.Machine
end

