-- ==== Sys2Proof/Laws/Encoding.lean ====
section
/-! SUPPORT. The fields of an encoded word, and a word as the join of its fields: what the decode and encode proofs rest on
(R71). -/

namespace Sys2Proof

theorem toNat_append {m n : Nat} (a : BitVec m) (b : BitVec n) : (a ++ b).toNat = a.toNat * 2 ^ n + b.toNat := by
  rw [BitVec.toNat_append, ← Nat.shiftLeft_add_eq_or_of_lt b.isLt, Nat.shiftLeft_eq]

theorem wordXNN_toNat (f z : Nibble) (nn : Byte) :
    (wordXNN f z nn).toNat = f.toNat * 4096 + z.toNat * 256 + nn.toNat := by
  unfold wordXNN; rw [toNat_append, toNat_append]; omega

theorem word4_toNat (f z y n : Nibble) :
    (word4 f z y n).toNat = f.toNat * 4096 + z.toNat * 256 + y.toNat * 16 + n.toNat := by
  unfold word4; rw [toNat_append, toNat_append, toNat_append]; omega

theorem wordNNN_toNat (f : Nibble) (nnn : Addr) : (wordNNN f nnn).toNat = f.toNat * 4096 + nnn.toNat := by
  unfold wordNNN; rw [toNat_append]; omega

theorem opF_toNat (op : Word) : (opF op).toNat = op.toNat / 4096 := by
  have := op.isLt; simp [opF, Nat.shiftRight_eq_div_pow]; omega

theorem opZ_toNat (op : Word) : (opZ op).toNat = op.toNat / 256 % 16 := by
  simp [opZ, Nat.shiftRight_eq_div_pow]

theorem opX_val (op : Word) : (opX op).val = op.toNat / 256 % 16 := by
  simp [opX, Nat.shiftRight_eq_div_pow]

theorem opY_val (op : Word) : (opY op).val = op.toNat / 16 % 16 := by
  simp [opY, Nat.shiftRight_eq_div_pow]

theorem opN_toNat (op : Word) : (opN op).toNat = op.toNat % 16 := by simp [opN]

theorem opNN_toNat (op : Word) : (opNN op).toNat = op.toNat % 256 := by simp [opNN]

theorem opNNN_toNat (op : Word) : (opNNN op).toNat = op.toNat % 4096 := by simp [opNNN]

@[simp] theorem regBits_toNat (r : Reg) : (regBits r).toNat = r.val := rfl

/-! ### Fields of an encoded word -/

section
variable (f z y n : Nibble) (x : Reg) (nn : Byte) (nnn : Addr)

@[simp] theorem opF_wordXNN : opF (wordXNN f z nn) = f := by
  apply BitVec.eq_of_toNat_eq; rw [opF_toNat, wordXNN_toNat]; omega
@[simp] theorem opZ_wordXNN : opZ (wordXNN f z nn) = z := by
  apply BitVec.eq_of_toNat_eq; rw [opZ_toNat, wordXNN_toNat]; omega
@[simp] theorem opX_wordXNN : opX (wordXNN f (regBits x) nn) = x := by
  apply Fin.ext; rw [opX_val, wordXNN_toNat, regBits_toNat]; omega
@[simp] theorem opNN_wordXNN : opNN (wordXNN f z nn) = nn := by
  apply BitVec.eq_of_toNat_eq; rw [opNN_toNat, wordXNN_toNat]; omega

@[simp] theorem opF_word4 : opF (word4 f z y n) = f := by
  apply BitVec.eq_of_toNat_eq; rw [opF_toNat, word4_toNat]; omega
@[simp] theorem opX_word4 : opX (word4 f (regBits x) y n) = x := by
  apply Fin.ext; rw [opX_val, word4_toNat, regBits_toNat]; omega
@[simp] theorem opY_word4 : opY (word4 f z (regBits x) n) = x := by
  apply Fin.ext; rw [opY_val, word4_toNat, regBits_toNat]; omega
@[simp] theorem opN_word4 : opN (word4 f z y n) = n := by
  apply BitVec.eq_of_toNat_eq; rw [opN_toNat, word4_toNat]; omega

@[simp] theorem opF_wordNNN : opF (wordNNN f nnn) = f := by
  apply BitVec.eq_of_toNat_eq; rw [opF_toNat, wordNNN_toNat]; omega
@[simp] theorem opNNN_wordNNN : opNNN (wordNNN f nnn) = nnn := by
  apply BitVec.eq_of_toNat_eq; rw [opNNN_toNat, wordNNN_toNat]; omega
end

/-! ### A word as the join of its fields -/

theorem wordXNN_fields (op : Word) : wordXNN (opF op) (opZ op) (opNN op) = op := by
  apply BitVec.eq_of_toNat_eq; rw [wordXNN_toNat, opF_toNat, opZ_toNat, opNN_toNat]; omega

theorem wordXNN_fields_reg (op : Word) : wordXNN (opF op) (regBits (opX op)) (opNN op) = op := wordXNN_fields op

theorem word4_fields (op : Word) : word4 (opF op) (regBits (opX op)) (regBits (opY op)) (opN op) = op := by
  apply BitVec.eq_of_toNat_eq
  rw [word4_toNat, opF_toNat, regBits_toNat, regBits_toNat, opX_val, opY_val, opN_toNat]; omega

theorem wordNNN_fields (op : Word) : wordNNN (opF op) (opNNN op) = op := by
  apply BitVec.eq_of_toNat_eq; rw [wordNNN_toNat, opF_toNat, opNNN_toNat]; omega

/-- A word's two bytes, joined again (R54). -/
@[simp] theorem wordOfBytes_bytes (w : Word) : wordOfBytes (highByte w) (lowByte w) = w := by
  have := w.isLt
  apply BitVec.eq_of_toNat_eq
  unfold wordOfBytes; rw [toNat_append]
  simp [highByte, lowByte, Nat.shiftRight_eq_div_pow]; omega

/-! ### A row's mask, read by fields -/

theorem word4_and (f z y n f' z' y' n' : Nibble) :
    word4 f z y n &&& word4 f' z' y' n' = word4 (f &&& f') (z &&& z') (y &&& y') (n &&& n') := by
  unfold word4; rw [BitVec.and_append, BitVec.and_append, BitVec.and_append]

theorem word4_inj {f z y n f' z' y' n' : Nibble} :
    word4 f z y n = word4 f' z' y' n' ↔ f = f' ∧ z = z' ∧ y = y' ∧ n = n' := by
  rw [← BitVec.toNat_inj, word4_toNat, word4_toNat, ← BitVec.toNat_inj, ← BitVec.toNat_inj, ← BitVec.toNat_inj,
    ← BitVec.toNat_inj]
  omega

/-- A word as its four nibbles. -/
theorem word4_nibbles (op : Word) : word4 (opF op) (opZ op) (regBits (opY op)) (opN op) = op := word4_fields op

/-- A row with the mask 0xF000 is selected by the family. -/
theorem selects_family (op : Word) (f : Nibble) : OpcodeRow.selects ⟨word4 f 0 0 0, 0xF000⟩ op = (opF op == f) := by
  rw [Bool.eq_iff_iff, OpcodeRow.selects, beq_iff_eq, beq_iff_eq, show (0xF000 : Word) = word4 0xF 0 0 0 by decide]
  conv => lhs; lhs; lhs; rw [← word4_nibbles op]
  rw [word4_and, word4_inj]
  simp [show ∀ a : Nibble, a &&& 15#4 = a by decide]

/-- A row with the mask 0xF00F is selected by the family and N. -/
theorem selects_familyN (op : Word) (f n : Nibble) :
    OpcodeRow.selects ⟨word4 f 0 0 n, 0xF00F⟩ op = (opF op == f && opN op == n) := by
  rw [Bool.eq_iff_iff, OpcodeRow.selects, Bool.and_eq_true, beq_iff_eq, beq_iff_eq, beq_iff_eq,
    show (0xF00F : Word) = word4 0xF 0 0 0xF by decide]
  conv => lhs; lhs; lhs; rw [← word4_nibbles op]
  rw [word4_and, word4_inj]
  simp [show ∀ a : Nibble, a &&& 15#4 = a by decide]

/-- A row with the mask 0xF0FF is selected by the family and NN. -/
theorem selects_familyNN (op : Word) (f : Nibble) (nn : Byte) :
    OpcodeRow.selects ⟨wordXNN f 0 nn, 0xF0FF⟩ op = (opF op == f && opNN op == nn) := by
  rw [Bool.eq_iff_iff, OpcodeRow.selects, Bool.and_eq_true, beq_iff_eq, beq_iff_eq, beq_iff_eq,
    show (0xF0FF : Word) = wordXNN 0xF 0 0xFF by decide]
  conv => lhs; lhs; lhs; rw [← wordXNN_fields op]
  have hand : wordXNN (opF op) (opZ op) (opNN op) &&& wordXNN 0xF 0 0xFF
      = wordXNN (opF op &&& 0xF) (opZ op &&& 0) (opNN op &&& 0xFF) := by
    unfold wordXNN; rw [BitVec.and_append, BitVec.and_append]
  have h1 : opF op &&& 0xF = opF op := by simp [show ∀ a : Nibble, a &&& 15#4 = a by decide]
  have h2 : opNN op &&& 0xFF = opNN op := by
    generalize opNN op = b; revert b; decide
  rw [hand, h1, h2]
  constructor
  · intro h
    exact ⟨by simpa using congrArg opF h, by simpa using congrArg opNN h⟩
  · rintro ⟨h3, h4⟩
    rw [h3, h4]; simp

end Sys2Proof
end

