-- ==== Sys2Proof/Laws/Frames.lean ====
section
/-! SUPPORT. The frames of the shared operations, in the terms of Safety.lean: a record equation gives the whole frame, and
`storeBytes` and `raiseFatal` have theirs. -/

namespace Sys2Proof.Machine

variable {s t : State}

theorem OnlyRegs.intro {rs : List Reg} (h : t = { s with v := t.v }) (hr : SameRegsBut s t rs) : OnlyRegs s t rs :=
  ⟨h, hr, fun a => by rw [h]; rfl⟩

theorem OnlyPc.intro (h : t = { s with pc := t.pc }) : OnlyPc s t :=
  ⟨h, fun r _ => by rw [h]; rfl, fun a => by rw [h]; rfl⟩

theorem OnlyI.intro (h : t = { s with i := t.i }) : OnlyI s t :=
  ⟨h, fun r _ => by rw [h]; rfl, fun a => by rw [h]; rfl⟩

theorem onlyRegs_setV (s : State) (x : Reg) (b : Byte) : OnlyRegs s (s.setV x b) [x] :=
  .intro rfl fun r h => s.getV_setV_ne (by simpa using h) b

theorem onlyRegs_setResultAndFlag (s : State) (x : Reg) (b : Byte) (f : Bool) :
    OnlyRegs s (s.setResultAndFlag x b f) [x, 15] :=
  .intro rfl fun r h => by simp at h; simp [h, vf]

theorem onlyRegs_loadBlock (s : State) (x : Reg) (a : Nat) :
    OnlyRegs s (s.loadBlock x a) ((List.finRange 16).filter fun r => r ≤ x) :=
  .intro rfl fun r h => by simp at h; simp [h]

theorem onlyPc_skipIf (s : State) (c : Bool) : OnlyPc s (s.skipIf c) := .intro rfl

theorem onlyMemory_storeBytes (s : State) (a : Nat) (bs : List Byte) : OnlyMemory s (s.storeBytes a bs) a bs.length :=
  ⟨s.storeBytes_frame a bs, fun r _ => by rw [s.storeBytes_frame a bs]; rfl,
    fun _ h => s.readByte_storeBytes_outside a bs h⟩

/-- Taking a fatal condition in the execute phase is the entry of R263. -/
theorem fatalEntry_raiseFatal (s : State) (c : Cause) (op : Word) : FatalEntry s (s.raiseFatal c op) c op :=
  ⟨rfl, fun _ _ => rfl, fun _ => rfl⟩

end Sys2Proof.Machine
end

