-- ==== Sys2Proof/Laws/Exec.lean ====
section
/-! SUPPORT. What the execute phase of each instruction can answer, said once: `ExecCase s i t` has one constructor for each
case of each meaning, with its guard, and `exec` answers exactly such a `t`, always a next state. A rule about all instructions is a case
split on `ExecCase`. -/

namespace Sys2Proof.Machine

/-- `t` is what the execute phase of the instruction makes of `s`. -/
inductive ExecCase (s : State) : Instr → State → Prop
  | cls (z) : ExecCase s (.cls z) ((s.setFb clearFramebuffer).emit .clear)
  | ret (z rest target) (h : s.stack = rest ++ [target]) : ExecCase s (.ret z) { s with stack := rest, pc := target }
  | retFatal (z) (h : s.stack = []) : ExecCase s (.ret z) (s.raiseFatal .stackUnderflow (encode (.ret z)))
  | jp (nnn) : ExecCase s (.jp nnn) (s.setPc (zext16 nnn))
  | call (nnn) (h : s.stackFull = false) : ExecCase s (.call nnn) ((s.push s.pc).setPc (zext16 nnn))
  | callFatal (nnn) (h : s.stackFull = true) (hp : s.cfg.stackOverflowPolicy = .fatal) :
      ExecCase s (.call nnn) (s.raiseFatal .stackOverflow (encode (.call nnn)))
  | callIgnored (nnn) (h : s.stackFull = true) (hp : s.cfg.stackOverflowPolicy = .ignore) :
      ExecCase s (.call nnn) (s.logDiag .stackOverflowIgnored (encode (.call nnn)))
  | seImm (x nn) : ExecCase s (.seImm x nn) (s.skipIf (s.getV x == nn))
  | sneImm (x nn) : ExecCase s (.sneImm x nn) (s.skipIf (s.getV x != nn))
  | seReg (x y n) : ExecCase s (.seReg x y n) (s.skipIf (s.getV x == s.getV y))
  | sneReg (x y n) : ExecCase s (.sneReg x y n) (s.skipIf (s.getV x != s.getV y))
  | ldImm (x nn) : ExecCase s (.ldImm x nn) (s.setV x nn)
  | addImm (x nn) : ExecCase s (.addImm x nn) (s.setV x (s.getV x + nn))
  | ldReg (x y) : ExecCase s (.ldReg x y) (s.setV x (s.getV y))
  | orReg (x y) : ExecCase s (.orReg x y) (s.setV x (s.getV x ||| s.getV y))
  | andReg (x y) : ExecCase s (.andReg x y) (s.setV x (s.getV x &&& s.getV y))
  | xorReg (x y) : ExecCase s (.xorReg x y) (s.setV x (s.getV x ^^^ s.getV y))
  | addReg (x y) :
      ExecCase s (.addReg x y) (s.setResultAndFlag x (s.getV x + s.getV y) (carryOut (s.getV x) (s.getV y)))
  | subReg (x y) :
      ExecCase s (.subReg x y) (s.setResultAndFlag x (s.getV x - s.getV y) (notBorrow (s.getV x) (s.getV y)))
  | shr (x y) :
      ExecCase s (.shr x y) (s.setResultAndFlag x (s.shiftOperand x y >>> 1) (shiftedOutRight (s.shiftOperand x y)))
  | subn (x y) :
      ExecCase s (.subn x y) (s.setResultAndFlag x (s.getV y - s.getV x) (notBorrow (s.getV y) (s.getV x)))
  | shl (x y) :
      ExecCase s (.shl x y) (s.setResultAndFlag x (s.shiftOperand x y <<< 1) (shiftedOutLeft (s.shiftOperand x y)))
  | ldI (nnn) : ExecCase s (.ldI nnn) (s.setI (zext16 nnn))
  | jpV0 (nnn) : ExecCase s (.jpV0 nnn) (s.setPc (s.jumpTarget nnn))
  | rnd (x nn) : ExecCase s (.rnd x nn) (s.setV x (s.input.rnd &&& nn))
  | drw (x y n c) (hr : inRange s.iAddr n.toNat = true)
      (hb : blit s.cfg.spriteEdge s.fb (s.sprite n) (s.startColumn x) (s.startRow y) = some c) :
      ExecCase s (.drw x y n) (s.drawn c)
  | drwAddress (x y n) (hr : inRange s.iAddr n.toNat = false) :
      ExecCase s (.drw x y n) (s.raiseFatal .addressFault (encode (.drw x y n)))
  | drwFrame (x y n) (hr : inRange s.iAddr n.toNat = true)
      (hb : blit s.cfg.spriteEdge s.fb (s.sprite n) (s.startColumn x) (s.startRow y) = none) :
      ExecCase s (.drw x y n) (s.raiseFatal .framebufferFault (encode (.drw x y n)))
  | skp (x) : ExecCase s (.skp x) (s.skipIf (s.keyIsDown (s.getV x)))
  | sknp (x) : ExecCase s (.sknp x) (s.skipIf (!s.keyIsDown (s.getV x)))
  | ldVxDt (x) : ExecCase s (.ldVxDt x) (s.setV x s.dt)
  | ldVxK (x) : ExecCase s (.ldVxK x) (s.setRun (.awaitingKey x))
  | ldDtVx (x) : ExecCase s (.ldDtVx x) (s.setDt (s.getV x))
  | ldStVx (x) : ExecCase s (.ldStVx x) (s.setSt (s.getV x))
  | addI (x) : ExecCase s (.addI x) (s.setI (s.i + byteToWord (s.getV x)))
  | ldF (x) : ExecCase s (.ldF x) (s.setI (fontAddr (s.getV x)))
  | ldB (x) (hr : inRange s.iAddr 3 = true) : ExecCase s (.ldB x) (s.storeBytes s.iAddr (bcdDigits (s.getV x)))
  | ldBFatal (x) (hr : inRange s.iAddr 3 = false) :
      ExecCase s (.ldB x) (s.raiseFatal .addressFault (encode (.ldB x)))
  | storeRegs (x) (hr : inRange s.iAddr (regCount x) = true) :
      ExecCase s (.storeRegs x) (s.storeBytes s.iAddr (s.regBlock x))
  | storeRegsFatal (x) (hr : inRange s.iAddr (regCount x) = false) :
      ExecCase s (.storeRegs x) (s.raiseFatal .addressFault (encode (.storeRegs x)))
  | loadRegs (x) (hr : inRange s.iAddr (regCount x) = true) : ExecCase s (.loadRegs x) (s.loadBlock x s.iAddr)
  | loadRegsFatal (x) (hr : inRange s.iAddr (regCount x) = false) :
      ExecCase s (.loadRegs x) (s.raiseFatal .addressFault (encode (.loadRegs x)))

/-- Every case is what `exec` answers. -/
theorem exec_of_case {s t : State} {i : Instr} (h : ExecCase s i t) : exec i s = .next t := by
  cases h with
  | ret z rest target h => simp [exec, execRet, h, State.pop, State.setPc]
  | retFatal z h => simp [exec, execRet, h]
  | call nnn h => simp [exec, execCall, h]
  | callFatal nnn h hp => simp [exec, execCall, h, hp]
  | callIgnored nnn h hp => simp [exec, execCall, h, hp]
  | drw x y n c hr hb => simp [exec, execDrw, hr, hb]
  | drwAddress x y n hr => simp [exec, execDrw, hr]
  | drwFrame x y n hr hb => simp [exec, execDrw, hr, hb]
  | ldB x hr => simp [exec, execLdB, hr]
  | ldBFatal x hr => simp [exec, execLdB, hr]
  | storeRegs x hr => simp [exec, execStoreRegs, hr]
  | storeRegsFatal x hr => simp [exec, execStoreRegs, hr]
  | loadRegs x hr => simp [exec, execLoadRegs, hr]
  | loadRegsFatal x hr => simp [exec, execLoadRegs, hr]
  | _ => rfl

/-- Some case holds of every instruction in every state. -/
theorem execCase_exists (i : Instr) (s : State) : ∃ t, ExecCase s i t := by
  cases i with
  | cls z => exact ⟨_, .cls z⟩
  | ret z =>
    rcases List.eq_nil_or_concat s.stack with h | ⟨rest, target, h⟩
    · exact ⟨_, .retFatal z h⟩
    · exact ⟨_, .ret z rest target (by simpa using h)⟩
  | jp nnn => exact ⟨_, .jp nnn⟩
  | call nnn =>
    cases h : s.stackFull
    · exact ⟨_, .call nnn h⟩
    · cases hp : s.cfg.stackOverflowPolicy
      · exact ⟨_, .callFatal nnn h hp⟩
      · exact ⟨_, .callIgnored nnn h hp⟩
  | seImm x nn => exact ⟨_, .seImm x nn⟩
  | sneImm x nn => exact ⟨_, .sneImm x nn⟩
  | seReg x y n => exact ⟨_, .seReg x y n⟩
  | ldImm x nn => exact ⟨_, .ldImm x nn⟩
  | addImm x nn => exact ⟨_, .addImm x nn⟩
  | ldReg x y => exact ⟨_, .ldReg x y⟩
  | orReg x y => exact ⟨_, .orReg x y⟩
  | andReg x y => exact ⟨_, .andReg x y⟩
  | xorReg x y => exact ⟨_, .xorReg x y⟩
  | addReg x y => exact ⟨_, .addReg x y⟩
  | subReg x y => exact ⟨_, .subReg x y⟩
  | shr x y => exact ⟨_, .shr x y⟩
  | subn x y => exact ⟨_, .subn x y⟩
  | shl x y => exact ⟨_, .shl x y⟩
  | sneReg x y n => exact ⟨_, .sneReg x y n⟩
  | ldI nnn => exact ⟨_, .ldI nnn⟩
  | jpV0 nnn => exact ⟨_, .jpV0 nnn⟩
  | rnd x nn => exact ⟨_, .rnd x nn⟩
  | drw x y n =>
    cases hr : inRange s.iAddr n.toNat
    · exact ⟨_, .drwAddress x y n hr⟩
    · cases hb : blit s.cfg.spriteEdge s.fb (s.sprite n) (s.startColumn x) (s.startRow y) with
      | none => exact ⟨_, .drwFrame x y n hr hb⟩
      | some c => exact ⟨_, .drw x y n c hr hb⟩
  | skp x => exact ⟨_, .skp x⟩
  | sknp x => exact ⟨_, .sknp x⟩
  | ldVxDt x => exact ⟨_, .ldVxDt x⟩
  | ldVxK x => exact ⟨_, .ldVxK x⟩
  | ldDtVx x => exact ⟨_, .ldDtVx x⟩
  | ldStVx x => exact ⟨_, .ldStVx x⟩
  | addI x => exact ⟨_, .addI x⟩
  | ldF x => exact ⟨_, .ldF x⟩
  | ldB x =>
    cases hr : inRange s.iAddr 3
    · exact ⟨_, .ldBFatal x hr⟩
    · exact ⟨_, .ldB x hr⟩
  | storeRegs x =>
    cases hr : inRange s.iAddr (regCount x)
    · exact ⟨_, .storeRegsFatal x hr⟩
    · exact ⟨_, .storeRegs x hr⟩
  | loadRegs x =>
    cases hr : inRange s.iAddr (regCount x)
    · exact ⟨_, .loadRegsFatal x hr⟩
    · exact ⟨_, .loadRegs x hr⟩

/-- The inversion lemma of `exec`. -/
theorem exec_case {s t : State} {i : Instr} (h : exec i s = .next t) : ExecCase s i t := by
  obtain ⟨u, hu⟩ := execCase_exists i s
  rw [exec_of_case hu] at h
  cases h
  exact hu

end Sys2Proof.Machine
end

