-- ==== Sys2Proof/Laws/PerInstr.lean ====
section
/-! SUPPORT. Statements made per instruction. The family RowPattern (R76): the encoding of an instruction selects its own row of
the opcode table, `op & mask = match`, whatever its operands are. -/

namespace Sys2Proof.Laws.RowPattern

/-- The encoding of the instruction selects the instruction's row. -/
def Statement (i : Instr) : Prop := i.row.selects (encode i) = true

theorem cls (z : Nibble) : Statement (.cls z) := (selects_familyNN _ 0x0 0xE0).trans (by simp [encode])
theorem ret (z : Nibble) : Statement (.ret z) := (selects_familyNN _ 0x0 0xEE).trans (by simp [encode])
theorem jp (nnn : Addr) : Statement (.jp nnn) := (selects_family _ 0x1).trans (by simp [encode])
theorem call (nnn : Addr) : Statement (.call nnn) := (selects_family _ 0x2).trans (by simp [encode])
theorem seImm (x : Reg) (nn : Byte) : Statement (.seImm x nn) := (selects_family _ 0x3).trans (by simp [encode])
theorem sneImm (x : Reg) (nn : Byte) : Statement (.sneImm x nn) := (selects_family _ 0x4).trans (by simp [encode])
theorem seReg (x y : Reg) (n : Nibble) : Statement (.seReg x y n) := (selects_family _ 0x5).trans (by simp [encode])
theorem ldImm (x : Reg) (nn : Byte) : Statement (.ldImm x nn) := (selects_family _ 0x6).trans (by simp [encode])
theorem addImm (x : Reg) (nn : Byte) : Statement (.addImm x nn) := (selects_family _ 0x7).trans (by simp [encode])
theorem ldReg (x y : Reg) : Statement (.ldReg x y) := (selects_familyN _ 0x8 0x0).trans (by simp [encode])
theorem orReg (x y : Reg) : Statement (.orReg x y) := (selects_familyN _ 0x8 0x1).trans (by simp [encode])
theorem andReg (x y : Reg) : Statement (.andReg x y) := (selects_familyN _ 0x8 0x2).trans (by simp [encode])
theorem xorReg (x y : Reg) : Statement (.xorReg x y) := (selects_familyN _ 0x8 0x3).trans (by simp [encode])
theorem addReg (x y : Reg) : Statement (.addReg x y) := (selects_familyN _ 0x8 0x4).trans (by simp [encode])
theorem subReg (x y : Reg) : Statement (.subReg x y) := (selects_familyN _ 0x8 0x5).trans (by simp [encode])
theorem shr (x y : Reg) : Statement (.shr x y) := (selects_familyN _ 0x8 0x6).trans (by simp [encode])
theorem subn (x y : Reg) : Statement (.subn x y) := (selects_familyN _ 0x8 0x7).trans (by simp [encode])
theorem shl (x y : Reg) : Statement (.shl x y) := (selects_familyN _ 0x8 0xE).trans (by simp [encode])
theorem sneReg (x y : Reg) (n : Nibble) : Statement (.sneReg x y n) := (selects_family _ 0x9).trans (by simp [encode])
theorem ldI (nnn : Addr) : Statement (.ldI nnn) := (selects_family _ 0xA).trans (by simp [encode])
theorem jpV0 (nnn : Addr) : Statement (.jpV0 nnn) := (selects_family _ 0xB).trans (by simp [encode])
theorem rnd (x : Reg) (nn : Byte) : Statement (.rnd x nn) := (selects_family _ 0xC).trans (by simp [encode])
theorem drw (x y : Reg) (n : Nibble) : Statement (.drw x y n) := (selects_family _ 0xD).trans (by simp [encode])
theorem skp (x : Reg) : Statement (.skp x) := (selects_familyNN _ 0xE 0x9E).trans (by simp [encode])
theorem sknp (x : Reg) : Statement (.sknp x) := (selects_familyNN _ 0xE 0xA1).trans (by simp [encode])
theorem ldVxDt (x : Reg) : Statement (.ldVxDt x) := (selects_familyNN _ 0xF 0x07).trans (by simp [encode])
theorem ldVxK (x : Reg) : Statement (.ldVxK x) := (selects_familyNN _ 0xF 0x0A).trans (by simp [encode])
theorem ldDtVx (x : Reg) : Statement (.ldDtVx x) := (selects_familyNN _ 0xF 0x15).trans (by simp [encode])
theorem ldStVx (x : Reg) : Statement (.ldStVx x) := (selects_familyNN _ 0xF 0x18).trans (by simp [encode])
theorem addI (x : Reg) : Statement (.addI x) := (selects_familyNN _ 0xF 0x1E).trans (by simp [encode])
theorem ldF (x : Reg) : Statement (.ldF x) := (selects_familyNN _ 0xF 0x29).trans (by simp [encode])
theorem ldB (x : Reg) : Statement (.ldB x) := (selects_familyNN _ 0xF 0x33).trans (by simp [encode])
theorem storeRegs (x : Reg) : Statement (.storeRegs x) := (selects_familyNN _ 0xF 0x55).trans (by simp [encode])
theorem loadRegs (x : Reg) : Statement (.loadRegs x) := (selects_familyNN _ 0xF 0x65).trans (by simp [encode])

end Sys2Proof.Laws.RowPattern
end

