-- ==== Sys2Proof/Laws/Step.lean ====
section
/-! SUPPORT. What one step can do, said once: which command it runs, what a `Step` is in each run state, what `endStep` and
the ticks leave alone, and that fetching depends on PC, memory and the configuration only. -/

namespace Sys2Proof.Machine

/-! ### Commands -/

theorem step_of_pending {s : State} {c : Command} {cs : List Command} (h : s.pending = c :: cs) :
    step s = doCommand c { s with pending := cs } := by simp only [step, turn, h]

theorem step_unscripted {s : State} (h : s.pending = []) (hr : s.isHalted = false) :
    step s = doStep (freeInput s.draws) s.unscripted := by
  simp only [step, turn, h]
  split
  · rename_i hr'; simp [State.isHalted, hr', RunState.isHalted] at hr
  · rfl
  · rfl

theorem step_halted {s : State} (h : s.pending = []) {c : Cause} {a : Word} {op : Option Word}
    (hr : s.run = .halted c a op) : step s = .fault (.halted c a op) := by simp only [step, turn, h, hr]

theorem doStep_running {s : State} (h : s.run = .running) (j : StepInput) :
    doStep j s = endStepOutcome (s.beginStep j).fetchAndExecute := by simp only [doStep, h]

theorem doStep_awaitingKey {s : State} {x : Reg} (h : s.run = .awaitingKey x) (j : StepInput) :
    doStep j s = .next ((s.beginStep j).keyWait x).endStep := by simp only [doStep, h]; rfl

theorem doStep_halted {s : State} (h : s.isHalted = true) (j : StepInput) : doStep j s = .next { s with out := none } := by
  simp only [doStep]
  split <;> simp_all [State.isHalted, RunState.isHalted]

theorem endStepOutcome_next (s : State) : endStepOutcome (.next s) = .next s.endStep := rfl

theorem run_succ {s t : State} {k : Nat} (h : step s = .next t) : Machine.run (k + 1) s = Machine.run k t := by
  simp only [Machine.run, h]

/-! ### The end of a step -/

/-- `endStep` writes the sound latch and the input latch alone. -/
theorem State.endStep_frame (s : State) : s.endStep = { s with soundOn := s.endStep.soundOn, input := .idle } := by
  unfold State.endStep State.latchSound; split <;> rfl

@[simp] theorem State.endStep_run (s : State) : s.endStep.run = s.run := by rw [s.endStep_frame]
@[simp] theorem State.endStep_st (s : State) : s.endStep.st = s.st := by rw [s.endStep_frame]
@[simp] theorem State.endStep_input (s : State) : s.endStep.input = .idle := by rw [s.endStep_frame]

theorem State.endStep_of_not_halted {s : State} (h : s.isHalted = false) :
    s.endStep = { s with soundOn := decide (s.st ≠ 0), input := .idle } := by
  simp only [State.isHalted] at h; simp [State.endStep, State.latchSound, h]

theorem State.endStep_of_halted {s : State} (h : s.isHalted = true) : s.endStep = { s with input := .idle } := by
  simp only [State.isHalted] at h; simp [State.endStep, State.latchSound, h]

/-! ### Ticks -/

theorem countDown_toNat (k : Nat) (t : Byte) : (countDown k t).toNat = t.toNat - k := by
  unfold countDown
  split
  · simp_all
  · have := t.isLt; simp; omega

/-- Ticks write the timers alone. -/
theorem State.tickBy_frame (s : State) (k : Nat) :
    s.tickBy k = { s with dt := (s.tickBy k).dt, st := (s.tickBy k).st } := by
  unfold State.tickBy; split <;> rfl

theorem State.tickBy_of_running {s : State} (h : s.timersRun = true) (k : Nat) :
    s.tickBy k = (s.setDt (countDown k s.dt)).setSt (countDown k s.st) := by simp [State.tickBy, h]

theorem State.tickBy_of_stopped {s : State} (h : s.timersRun = false) (k : Nat) : s.tickBy k = s := by
  simp [State.tickBy, h]

/-- An unscripted turn ticks, and counts a draw. -/
theorem State.unscripted_frame (s : State) :
    s.unscripted = { s with dt := s.unscripted.dt, st := s.unscripted.st, draws := s.draws + 1 } := by
  rw [State.unscripted, s.tickBy_frame]

/-! ### Fetch and execute -/

/-- The fetched opcode depends on PC, memory and the configuration alone (R72). -/
theorem State.fetchWord_congr {s u : State} (h1 : u.cfg = s.cfg) (h2 : u.mem = s.mem) (h3 : u.pc = s.pc) :
    u.fetchWord = s.fetchWord := by unfold State.fetchWord State.readByte; rw [h1, h2, h3]

/-- A `Step` in `Running` at a PC inside memory executes the opcode there (R72). -/
theorem State.fetchAndExecute_of_canFetch {s : State} (h : s.pc.toNat + 1 ≤ 0xFFF) :
    s.fetchAndExecute = execOpcode s.fetchWord s.advancePc := by
  simp [State.fetchAndExecute, State.canFetch, lastAddr, h]

theorem State.fetchAndExecute_of_fault {s : State} (h : 0xFFF ≤ s.pc.toNat) :
    s.fetchAndExecute = .next s.raiseFetchFault := by
  have : ¬ s.pc.toNat + 1 ≤ 4095 := by omega
  simp [State.fetchAndExecute, State.canFetch, lastAddr, this]

theorem decode_two_ok {hi lo : Byte} {i : Instr} (h : decode [hi, lo] = .ok (i, [])) :
    decodeWord (wordOfBytes hi lo) = .ok i := by
  simp only [decode] at h; split at h <;> simp_all

/-! ### Inversion: everything a step can do -/

/-- What a step that answers a next state did: the waiting command, or an unscripted `Step`. -/
theorem step_cases {s t : State} (h : step s = .next t) :
    (∃ c cs, s.pending = c :: cs ∧ doCommand c { s with pending := cs } = .next t) ∨
    (s.pending = [] ∧ s.isHalted = false ∧ doStep (freeInput s.draws) s.unscripted = .next t) := by
  cases hp : s.pending with
  | cons c cs => exact .inl ⟨c, cs, rfl, by rw [← step_of_pending hp]; exact h⟩
  | nil =>
    cases hh : s.isHalted
    · exact .inr ⟨rfl, rfl, by rw [← step_unscripted hp hh]; exact h⟩
    · cases hr : s.run <;> simp [State.isHalted, hr, RunState.isHalted] at hh
      rw [step_halted hp hr] at h; cases h

/-- What the execute phase of a `Step` in `Running` makes of the state `s` in which the step began (R72). -/
inductive FetchCase (s : State) : State → Prop
  | fault (h : s.canFetch = false) : FetchCase s s.raiseFetchFault
  | unknown (e) (h : s.canFetch = true) (hd : decodeWord s.fetchWord = .error e) :
      FetchCase s (s.advancePc.unknownOpcode s.fetchWord)
  | exec (i u) (h : s.canFetch = true) (hd : decodeWord s.fetchWord = .ok i) (hx : exec i s.advancePc = .next u) :
      FetchCase s u

/-- What a `Step` that answers a next state did, by run state (R282). -/
theorem doStep_cases {s t : State} {j : StepInput} (h : doStep j s = .next t) :
    (s.isHalted = true ∧ t = { s with out := none }) ∨
    (∃ x, s.run = .awaitingKey x ∧ t = ((s.beginStep j).keyWait x).endStep) ∨
    (s.run = .running ∧ ∃ u, FetchCase (s.beginStep j) u ∧ t = u.endStep) := by
  cases hr : s.run with
  | halted c a op =>
    have hh : s.isHalted = true := by simp [State.isHalted, hr, RunState.isHalted]
    rw [doStep_halted hh] at h; cases h
    exact .inl ⟨hh, by rw [← hr]⟩
  | awaitingKey x =>
    rw [doStep_awaitingKey hr] at h; cases h
    exact .inr (.inl ⟨x, rfl, rfl⟩)
  | running =>
    rw [doStep_running hr] at h
    refine .inr (.inr ⟨rfl, ?_⟩)
    generalize s.beginStep j = b at h ⊢
    unfold State.fetchAndExecute at h
    cases hc : b.canFetch with
    | false => simp only [hc] at h; cases h; exact ⟨_, .fault hc, rfl⟩
    | true =>
      simp only [hc, if_true, execOpcode] at h
      split at h
      · rename_i i hd
        cases hx : exec i b.advancePc with
        | next u => rw [hx] at h; cases h; exact ⟨u, .exec i u hc hd hx, rfl⟩
        | fault r => rw [hx] at h; cases h
        | refused r => rw [hx] at h; cases h
      · rename_i e hd
        cases h
        exact ⟨_, .unknown e hc hd, rfl⟩

end Sys2Proof.Machine
end

