-- ==== Sys2Proof/Tests/Slice0.lean ====
section
/-! SUPPORT. The model's own tests: ill-formed terms that each check refuses; one word of every constructor, written out from
R71 and R76, decoded; one or two vectors of spec/95_test_vectors.md for each instruction, each one step; and for every statement
of Obligations.lean that has hypotheses a concrete state that meets them, one for each clause, at the edge of its range. -/

namespace Sys2Proof.Tests

open Sys2Proof Sys2Proof.Machine

/-! ### Well-formedness: what the checks refuse -/

theorem test_stack_depth_zero_is_ill_formed :
    ({ defaultConfig with stackDepth := .bounded 0 } : Config).wf = false ∧ defaultConfig.wf = true := by decide

theorem test_short_font_is_ill_formed :
    ({ defaultConfig with fontTable := defaultFont.dropLast } : Config).wf = false ∧ fontWf (defaultFont ++ [0]) = false := by
  decide

theorem test_oversized_rom_is_ill_formed :
    romFits (List.replicate 3585 0) = false ∧ romFits (List.replicate 3584 0) = true := by
  simp only [romFits, List.length_replicate]; decide

theorem test_memory_out_of_order_is_ill_formed :
    ¬ Memory.wf (resetByte defaultConfig) [(0x301, 1), (0x300, 2)] ∧
    ¬ Memory.wf (resetByte defaultConfig) [(0x300, 1), (0x300, 2)] := by decide

theorem test_memory_redundant_or_outside_is_ill_formed :
    ¬ Memory.wf (resetByte defaultConfig) [(0x300, 0)] ∧ ¬ Memory.wf (resetByte defaultConfig) [(0x050, 0xF0)] ∧
    ¬ Memory.wf (resetByte defaultConfig) [(0x1000, 1)] ∧ Memory.wf (resetByte defaultConfig) [(0x050, 0), (0xFFF, 1)] := by
  decide

/-! ### Decoding: a word of every constructor, from R71 and R76 -/

theorem test_decode_family0 :
    decodeWord 0b0000_0000_1110_0000 = .ok (.cls 0) ∧ decodeWord 0b0000_0001_1110_0000 = .ok (.cls 1) ∧
    decodeWord 0b0000_0000_1110_1110 = .ok (.ret 0) ∧ decodeWord 0b0000_1111_1110_1110 = .ok (.ret 0xF) := by decide

theorem test_decode_jump_and_call :
    decodeWord 0b0001_0010_1111_0000 = .ok (.jp 0x2F0) ∧ decodeWord 0b0010_0010_0001_0000 = .ok (.call 0x210) ∧
    decodeWord 0b1011_0010_1111_0000 = .ok (.jpV0 0x2F0) ∧ decodeWord 0b1010_0011_0000_0000 = .ok (.ldI 0x300) := by decide

theorem test_decode_skips :
    decodeWord 0b0011_0000_0100_0010 = .ok (.seImm 0 0x42) ∧ decodeWord 0b0100_0101_0000_0001 = .ok (.sneImm 5 0x01) ∧
    decodeWord 0b0101_0001_0010_0011 = .ok (.seReg 1 2 3) ∧ decodeWord 0b1001_0001_0010_0000 = .ok (.sneReg 1 2 0) := by decide

theorem test_decode_immediates :
    decodeWord 0b0110_1010_0100_0010 = .ok (.ldImm 10 0x42) ∧ decodeWord 0b0111_0011_0000_0101 = .ok (.addImm 3 0x05) ∧
    decodeWord 0b1100_0011_0000_1111 = .ok (.rnd 3 0x0F) := by decide

theorem test_decode_family8_logic :
    decodeWord 0b1000_0001_0010_0000 = .ok (.ldReg 1 2) ∧ decodeWord 0b1000_0001_0010_0001 = .ok (.orReg 1 2) ∧
    decodeWord 0b1000_0001_0010_0010 = .ok (.andReg 1 2) ∧ decodeWord 0b1000_0001_0010_0011 = .ok (.xorReg 1 2) := by decide

theorem test_decode_family8_arithmetic :
    decodeWord 0b1000_1111_0001_0100 = .ok (.addReg 15 1) ∧ decodeWord 0b1000_0001_1111_0101 = .ok (.subReg 1 15) ∧
    decodeWord 0b1000_0001_0010_0110 = .ok (.shr 1 2) ∧ decodeWord 0b1000_0001_0010_0111 = .ok (.subn 1 2) ∧
    decodeWord 0b1000_0001_0010_1110 = .ok (.shl 1 2) := by decide

theorem test_decode_draw_and_keys :
    decodeWord 0b1101_0010_0001_1111 = .ok (.drw 2 1 0xF) ∧ decodeWord 0b1110_0101_1001_1110 = .ok (.skp 5) ∧
    decodeWord 0b1110_0101_1010_0001 = .ok (.sknp 5) := by decide

theorem test_decode_familyF_timers :
    decodeWord 0b1111_0011_0000_0111 = .ok (.ldVxDt 3) ∧ decodeWord 0b1111_0011_0000_1010 = .ok (.ldVxK 3) ∧
    decodeWord 0b1111_0011_0001_0101 = .ok (.ldDtVx 3) ∧ decodeWord 0b1111_0011_0001_1000 = .ok (.ldStVx 3) := by decide

theorem test_decode_familyF_memory :
    decodeWord 0b1111_0010_0001_1110 = .ok (.addI 2) ∧ decodeWord 0b1111_0010_0010_1001 = .ok (.ldF 2) ∧
    decodeWord 0b1111_0010_0011_0011 = .ok (.ldB 2) ∧ decodeWord 0b1111_0010_0101_0101 = .ok (.storeRegs 2) ∧
    decodeWord 0b1111_0010_0110_0101 = .ok (.loadRegs 2) := by decide

/-- R78 to R82: one rejected word of each family that sub-dispatches, and bytes too short for a word. -/
theorem test_decode_rejects_by_name :
    decodeWord 0x0123 = .error (.unknownOpcode 0x0123) ∧ decodeWord 0x8008 = .error (.unknownOpcode 0x8008) ∧
    decodeWord 0xE09F = .error (.unknownOpcode 0xE09F) ∧ decodeWord 0xF0FF = .error (.unknownOpcode 0xF0FF) ∧
    decode [0x12] = .error .tooShort := by decide

/-- R54: the byte at the lower address is the high byte. -/
theorem test_decode_is_big_endian : decode [0x12, 0xF0, 0x77] = .ok (.jp 0x2F0, [0x77]) := by decide

/-! ### One step of each instruction: vectors of spec/95_test_vectors.md -/

/-- The reset state in the execute phase of an instruction at 0x200, with some registers set. -/
def inExec (vs : List (Reg × Byte)) : State := vs.foldl (fun s p => s.setV p.1 p.2) { State.reset with pc := 0x202 }

/-- What a test sees of a result: nothing, unless it is a next state. -/
def seen {α : Type} (f : State → α) : Result → Option α
  | .next t => some (f t)
  | .fault _ => none
  | .refused _ => none

/-- Two registers. -/
def two (a b : Reg) (s : State) : Byte × Byte := (s.getV a, s.getV b)

-- section 2.1
theorem test_ldImm : seen (·.getV 10) (exec (.ldImm 10 0x42) (inExec [])) = some 0x42 := by decide
theorem test_addImm_no_flag : seen (two 3 15) (exec (.addImm 3 5) (inExec [(3, 0xFE), (15, 7)])) = some (3, 7) := by decide
theorem test_addImm_vf : seen (·.getV 15) (exec (.addImm 15 0xFF) (inExec [])) = some 0xFF := by decide
theorem test_ldReg : seen (·.getV 1) (exec (.ldReg 1 2) (inExec [(2, 0x77)])) = some 0x77 := by decide
theorem test_orReg : seen (two 0 15) (exec (.orReg 0 1) (inExec [(0, 0xF0), (1, 0x0F), (15, 5)])) = some (0xFF, 5) := by decide
theorem test_andReg : seen (·.getV 0) (exec (.andReg 0 1) (inExec [(0, 0xF0), (1, 0x3C)])) = some 0x30 := by decide
theorem test_xorReg : seen (·.getV 0) (exec (.xorReg 0 1) (inExec [(0, 0xFF), (1, 0x0F)])) = some 0xF0 := by decide
theorem test_addReg_no_carry : seen (two 0 15) (exec (.addReg 0 1) (inExec [(0, 0x7F), (1, 0x80)])) = some (0xFF, 0) := by decide
theorem test_addReg_flag_last : seen (·.getV 15) (exec (.addReg 15 1) (inExec [(15, 0x10), (1, 0xF5)])) = some 1 := by decide
theorem test_subReg_borrow : seen (two 0 15) (exec (.subReg 0 1) (inExec [(0, 3), (1, 5)])) = some (0xFE, 0) := by decide
theorem test_subReg_equal : seen (two 0 15) (exec (.subReg 0 1) (inExec [(0, 7), (1, 7)])) = some (0, 1) := by decide
theorem test_subn : seen (two 0 15) (exec (.subn 0 1) (inExec [(0, 3), (1, 5)])) = some (2, 1) := by decide
theorem test_subn_borrow : seen (two 0 15) (exec (.subn 0 1) (inExec [(0, 5), (1, 3)])) = some (0xFE, 0) := by decide
theorem test_shr_vx : seen (two 0 15) (exec (.shr 0 1) (inExec [(0, 3), (1, 0x80)])) = some (1, 1) := by decide
theorem test_shr_vf : seen (·.getV 15) (exec (.shr 15 15) (inExec [(15, 2)])) = some 0 := by decide
theorem test_shl_vx : seen (two 0 15) (exec (.shl 0 0) (inExec [(0, 0x81)])) = some (2, 1) := by decide

/-- `SHIFT_SOURCE = ShiftVY`. -/
theorem test_shl_vy :
    seen (two 0 1) (exec (.shl 0 1) { inExec [(1, 0x81)] with cfg := { defaultConfig with shiftSource := .shiftVY } }) =
      some (2, 0x81) := by decide

theorem test_rnd : seen (·.getV 3) (exec (.rnd 3 0x0F) { inExec [] with input := ⟨0, none, 0xAB⟩ }) = some 0x0B := by decide

-- section 2.2
theorem test_ret : seen (fun t => (t.pc, t.stack)) (exec (.ret 0xF) { inExec [] with stack := [0x206] }) = some (0x206, []) := by
  decide
theorem test_ret_underflow :
    seen (fun t => (t.pc, t.run)) (exec (.ret 0) (inExec [])) =
      some (0x200, .halted .stackUnderflow 0x200 (some 0x00EE)) := by decide
theorem test_jp : seen (·.pc) (exec (.jp 0x2F0) (inExec [])) = some 0x2F0 := by decide
theorem test_call :
    seen (fun t => (t.pc, t.stack)) (exec (.call 0x210) { inExec [] with pc := 0x206 }) = some (0x210, [0x206]) := by decide
theorem test_call_overflow :
    seen (fun t => (t.run, t.stack.length)) (exec (.call 0x200) { inExec [] with stack := List.replicate 16 0x202 }) =
      some (.halted .stackOverflow 0x200 (some 0x2200), 16) := by decide
theorem test_seImm : seen (·.pc) (exec (.seImm 0 0x42) (inExec [(0, 0x42)])) = some 0x204 ∧
    seen (·.pc) (exec (.seImm 0 0x42) (inExec [(0, 0x41)])) = some 0x202 := by decide
theorem test_sneImm : seen (·.pc) (exec (.sneImm 0 0x42) (inExec [(0, 0x41)])) = some 0x204 ∧
    seen (·.pc) (exec (.sneImm 0 0x42) (inExec [(0, 0x42)])) = some 0x202 := by decide
theorem test_seReg : seen (·.pc) (exec (.seReg 1 2 3) (inExec [(1, 0x33), (2, 0x33)])) = some 0x204 := by decide
theorem test_sneReg : seen (·.pc) (exec (.sneReg 1 2 0) (inExec [(1, 1), (2, 2)])) = some 0x204 ∧
    seen (·.pc) (exec (.sneReg 1 1 0) (inExec [])) = some 0x202 := by decide
theorem test_jpV0_no_mask : seen (·.pc) (exec (.jpV0 0xFFF) (inExec [(0, 0xFF)])) = some 0x10FE := by decide

/-- `JUMP_OFFSET_REG = OffsetVX`. -/
theorem test_jpV0_vx :
    seen (·.pc) (exec (.jpV0 0x2F0)
      { inExec [(2, 5), (0, 0x40)] with cfg := { defaultConfig with jumpOffsetReg := .offsetVX } }) = some 0x2F5 := by decide

-- section 2.3
/-- The state with I = 0x300 and the sprite `bs` there. -/
def inDraw (edge : SpriteEdge) (bs : List Byte) (vs : List (Reg × Byte)) : State :=
  { (inExec vs).storeBytes 0x300 bs with i := 0x300, cfg := { defaultConfig with spriteEdge := edge } }

theorem test_cls : seen (fun t => (t.fb, t.out, t.getV 15)) (exec (.cls 0) { inExec [(15, 9)] with fb := Vector.replicate 32 5 }) =
    some (Vector.replicate 32 0, some .clear, 9) := by decide
theorem test_drw_wrap_and_old_vf_coordinate :
    seen (fun t => (t.fb[0], t.getV 15)) (exec (.drw 0 1 1) (inDraw .wrap [0xFF] [(0, 62)])) =
      some (0xFC00000000000003, 0) ∧
    seen (fun t => (getPixel t.fb 5 3, t.getV 15)) (exec (.drw 15 0 1) (inDraw .clip [0x80] [(15, 5), (0, 3)])) =
      some (true, 0) := by decide
theorem test_drw_reference_fault :
    seen (fun t => (t.run, t.pc)) (exec (.drw 0 1 2) (inDraw .reference [0x80, 0x80] [(1, 31)])) =
      some (.halted .framebufferFault 0x200 (some 0xD012), 0x200) := by decide

-- section 2.4
theorem test_ldVxDt : seen (·.getV 3) (exec (.ldVxDt 3) { inExec [] with dt := 0x3C }) = some 0x3C := by decide
theorem test_ldDtVx : seen (·.dt) (exec (.ldDtVx 0) (inExec [(0, 3)])) = some 3 := by decide
theorem test_ldStVx : seen (fun t => (t.st, t.soundOn)) (exec (.ldStVx 1) (inExec [(1, 5)])) = some (5, false) := by decide

/-- W12, and `Tick` does not recompute `sound_on`. -/
theorem test_tick : seen (fun t => (t.dt, t.st, t.soundOn)) (doTick { State.reset with dt := 2, st := 1, soundOn := true }) =
    some (1, 0, true) := by decide

-- section 2.5
theorem test_skp : seen (·.pc) (exec (.skp 5) { inExec [(5, 0xA)] with input := ⟨0x0400, none, 0⟩ }) = some 0x204 ∧
    seen (·.pc) (exec (.skp 5) { inExec [(5, 0x1A)] with input := ⟨0xFFFF, none, 0⟩ }) = some 0x202 := by decide
theorem test_sknp : seen (·.pc) (exec (.sknp 5) { inExec [(5, 0xA)] with input := ⟨0x0400, none, 0⟩ }) = some 0x202 ∧
    seen (·.pc) (exec (.sknp 5) (inExec [(5, 0x1A)])) = some 0x204 := by decide
theorem test_ldVxK : seen (fun t => (t.run, t.pc)) (exec (.ldVxK 3) (inExec [])) = some (.awaitingKey 3, 0x202) := by decide
theorem test_key_wait_ends : seen (fun t => (t.getV 3, t.run, t.pc))
    (doStep ⟨0, some 0xC, 0⟩ { inExec [] with run := .awaitingKey 3 }) = some (0x0C, .running, 0x202) := by decide

-- section 2.6
theorem test_ldI : seen (·.i) (exec (.ldI 0x300) (inExec [])) = some 0x300 := by decide
theorem test_addI_wraps : seen (·.i) (exec (.addI 2) { inExec [(2, 1)] with i := 0xFFFF }) = some 0 := by decide
theorem test_ldF : seen (·.i) (exec (.ldF 0) (inExec [(0, 0xA)])) = some 0x082 ∧
    seen (·.i) (exec (.ldF 0) (inExec [(0, 0x10)])) = some 0x0A0 := by decide
theorem test_ldB : seen (·.mem) (exec (.ldB 0) { inExec [(0, 157)] with i := 0x300 }) =
    some [(0x300, 1), (0x301, 5), (0x302, 7)] := by decide
theorem test_ldB_fault : seen (fun t => (t.run, t.mem)) (exec (.ldB 0) { inExec [(0, 42)] with i := 0xFFE }) =
    some (.halted .addressFault 0x200 (some 0xF033), []) := by decide
theorem test_storeRegs : seen (·.mem) (exec (.storeRegs 2) { inExec [(0, 1), (1, 2), (2, 3), (3, 4)] with i := 0x300 }) =
    some [(0x300, 1), (0x301, 2), (0x302, 3)] := by decide
theorem test_loadRegs : seen (fun t => (two 0 2 t, t.getV 3, t.i))
    (exec (.loadRegs 2) { (inExec [(3, 9)]).storeBytes 0x300 [1, 5, 7, 8] with i := 0x300 }) = some ((1, 7), 9, 0x300) := by decide
theorem test_loadRegs_fault : seen (·.run) (exec (.loadRegs 0) { inExec [] with i := 0x1000 }) =
    some (.halted .addressFault 0x200 (some 0xF065)) := by decide

-- section 2.7
/-- A reset state whose next command is a `Step` with no keys and random byte 0, after some bytes at 0x200. -/
def ready (bs : List Byte) : State := { State.reset.storeBytes 0x200 bs with pending := [.step .idle] }

theorem test_step_unknown_opcode : seen (fun t => (t.pc, t.out)) (step (ready [])) =
    some (0x202, some (.diag .unknownOpcode 0x200 0x0000)) := by decide
theorem test_step_sound_latch : seen (fun t => (t.st, t.soundOn)) (step { ready [0xF1, 0x18] with v := Vector.replicate 16 5 }) =
    some (5, true) := by decide
theorem test_step_fetch_fault : seen (fun t => (t.pc, t.run)) (step { ready [] with pc := 0xFFF }) =
    some (0xFFF, .halted .fetchFault 0xFFF none) := by decide
theorem test_reset_font : State.reset.readByte 0x050 = 0xF0 ∧ State.reset.readByte 0x09F = 0x80 ∧
    State.reset.readByte 0x0A0 = 0 ∧ State.reset.readByte 0x200 = 0 := by decide
theorem test_load : seen (·.mem) (doLoad [0x12, 0x00, 0x34] State.reset) = some [(0x200, 0x12), (0x202, 0x34)] := by decide
theorem test_present_word : (presentWords (setPixel clearFramebuffer 0 0 true))[0]? = some 0x8000000000000000 := by decide

/-! ### Witnesses: states that meet the hypotheses of the statements -/

/-- The default configuration with an edge policy. -/
def edgeCfg (e : SpriteEdge) : Config := { defaultConfig with spriteEdge := e }

theorem witness_ShiftsMoveOneBitIntoVf_vx :
    (State.reset.cfg.shiftSource = .shiftVX → (0 : Byte) = State.reset.getV 1) ∧
    (State.reset.cfg.shiftSource = .shiftVY → (0 : Byte) = State.reset.getV 2) := by decide

/-- The two registers differ: `b` is V[Y] = 0x81. -/
theorem witness_ShiftsMoveOneBitIntoVf_vy :
    let s := { inExec [(1, 0x81)] with cfg := { defaultConfig with shiftSource := .shiftVY } }
    (s.cfg.shiftSource = .shiftVX → (0x81 : Byte) = s.getV 0) ∧ (s.cfg.shiftSource = .shiftVY → (0x81 : Byte) = s.getV 1) := by
  decide

theorem witness_ReturnPopsOrUnderflows :
    ({ inExec [] with stack := [0x206] } : State).stack = [] ++ [0x206] ∧ (inExec []).stack = [] := by decide

/-- Fifteen entries: one place left. -/
theorem witness_CallPushesReturnAddress_bounded :
    let s := { inExec [] with stack := List.replicate 15 0x202 }
    ∀ n, s.cfg.stackDepth = .bounded n → s.stack.length ≠ n := by
  intro s n h; cases h; decide

theorem witness_CallPushesReturnAddress_unbounded :
    let s := { inExec [] with stack := List.replicate 16 0x202, cfg := { defaultConfig with stackDepth := .unbounded } }
    ∀ n, s.cfg.stackDepth = .bounded n → s.stack.length ≠ n := by
  intro s n h; cases h

theorem witness_CallOnFullStackFollowsPolicy_fatal :
    let s := { inExec [] with stack := List.replicate 16 0x202 }
    s.cfg.stackDepth = .bounded 16 ∧ s.stack.length = 16 ∧ s.cfg.stackOverflowPolicy = .fatal := by decide

theorem witness_CallOnFullStackFollowsPolicy_ignore :
    let s := { inExec [] with stack := [0x202],
                              cfg := { defaultConfig with stackDepth := .bounded 1, stackOverflowPolicy := .ignore } }
    s.cfg.stackDepth = .bounded 1 ∧ s.stack.length = 1 ∧ s.cfg.stackOverflowPolicy = .ignore := by decide

/-- The called routine leaves the stack as the call did. -/
theorem witness_CallThenReturnComesBack :
    (∀ n, (inExec []).cfg.stackDepth = .bounded n → (inExec []).stack.length ≠ n) ∧
    seen (·.stack) (exec (.call 0x300) (inExec [])) = some ({ inExec [] with stack := [0x202] } : State).stack :=
  ⟨by intro n h; cases h; decide, by decide⟩

theorem witness_OffsetJumpAddsUnmasked_v0 :
    (State.reset.cfg.jumpOffsetReg = .offsetV0 → (0 : Reg) = 0) ∧
    (State.reset.cfg.jumpOffsetReg = .offsetVX → (0 : Reg).val = (0xFFF : Addr).toNat / 256) := by decide

theorem witness_OffsetJumpAddsUnmasked_vx :
    let cfg := { defaultConfig with jumpOffsetReg := .offsetVX }
    (cfg.jumpOffsetReg = .offsetV0 → (0xF : Reg) = 0) ∧
    (cfg.jumpOffsetReg = .offsetVX → (0xF : Reg).val = (0xFFF : Addr).toNat / 256) := by decide

/-- At the last column and the last row, under `Wrap` and `Clip`. -/
theorem witness_BlitXorsThePicture_wrap_clip :
    (63 < 64 ∧ 31 < 32 ∧ (List.replicate 15 (0xFF : Byte)).length ≤ 15) ∧
    (blit .wrap clearFramebuffer (List.replicate 15 0xFF) 63 31).isSome = true ∧
    (blit .clip clearFramebuffer (List.replicate 15 0xFF) 63 31).isSome = true := by decide

/-- Under `Reference` the last rows just fit. -/
theorem witness_BlitXorsThePicture_reference :
    (blit .reference clearFramebuffer [0xFF, 0xFF] 63 30).isSome = true := by decide

/-- Both sides of the equivalence, one row apart. -/
theorem witness_BlitFailsOnlyPastLastRow :
    blit .reference clearFramebuffer [0xFF, 0xFF] 0 31 = none ∧
    (blit .reference clearFramebuffer [0xFF] 0 31).isSome = true := by decide

/-- A sprite of 15 bytes that ends at 0xFFF, at the start row 17 that just fits; the sprite is what memory holds. -/
theorem witness_DrawXorsSpriteAndSetsCollision :
    let s := { inExec [(0, 63), (1, 17)] with i := 0xFF1, cfg := edgeCfg .reference, mem := [(0xFFF, 0x80)] }
    ((15 : Nibble).toNat = 0 ∨ s.i.toNat + (15 : Nibble).toNat ≤ 4096) ∧
    (List.replicate 14 (0 : Byte) ++ [0x80]) = (List.range (15 : Nibble).toNat).map (fun r => s.readByte (s.i.toNat + r)) ∧
    63 = (s.getV 0).toNat % 64 ∧ 17 = (s.getV 1).toNat % 32 ∧
    (s.cfg.spriteEdge = .reference → 17 + (15 : Nibble).toNat ≤ 32) := by decide

/-- No byte is read when N = 0, whatever I is. -/
theorem witness_DrawXorsSpriteAndSetsCollision_empty :
    let s := { inExec [] with i := 0xFFFF }
    ((0 : Nibble).toNat = 0 ∨ s.i.toNat + (0 : Nibble).toNat ≤ 4096) ∧
    ([] : List Byte) = (List.range (0 : Nibble).toNat).map (fun r => s.readByte (s.i.toNat + r)) ∧
    0 = (s.getV 0).toNat % 64 ∧ 0 = (s.getV 1).toNat % 32 ∧
    (s.cfg.spriteEdge = .reference → 0 + (0 : Nibble).toNat ≤ 32) := by decide

/-- Both clauses on the collision: a set pixel is met, and none is. -/
theorem witness_DrawXorsSpriteAndSetsCollision_clauses :
    Collides .wrap (setPixel clearFramebuffer 1 0 true) [0x40] 0 0 ∧ ¬ Collides .wrap clearFramebuffer [0x40] 0 0 := by
  refine ⟨⟨1, 0, by decide⟩, ?_⟩
  rintro ⟨px, py, _, hy, h, -⟩
  simp [getPixel, clearFramebuffer, hy] at h

theorem witness_DrawFaultsOutsideMemoryOrFrame_address :
    1 ≤ (15 : Nibble).toNat ∧ ({ inExec [] with i := 0xFF2 } : State).i.toNat + (15 : Nibble).toNat > 4096 := by decide

theorem witness_DrawFaultsOutsideMemoryOrFrame_frame :
    let s := { inExec [(1, 18)] with i := 0xFF1, cfg := edgeCfg .reference }
    1 ≤ (15 : Nibble).toNat ∧ s.i.toNat + (15 : Nibble).toNat ≤ 4096 ∧ s.cfg.spriteEdge = .reference ∧
    (s.getV 1).toNat % 32 + (15 : Nibble).toNat > 32 := by decide

theorem witness_DrawTwiceRestoresTheFrame :
    let s := { inExec [(0, 63), (1, 31)] with i := 0xFFE, mem := [(0xFFE, 0x80), (0xFFF, 0xFF)] }
    (0 : Reg) ≠ 15 ∧ (1 : Reg) ≠ 15 ∧ ((2 : Nibble).toNat = 0 ∨ s.i.toNat + (2 : Nibble).toNat ≤ 4096) ∧
    [0x80, 0xFF] = (List.range (2 : Nibble).toNat).map (fun r => s.readByte (s.i.toNat + r)) ∧
    63 = (s.getV 0).toNat % 64 ∧ 31 = (s.getV 1).toNat % 32 ∧
    (s.cfg.spriteEdge = .reference → 31 + (2 : Nibble).toNat ≤ 32) := by decide

theorem witness_PresentWordsHoldThePixels : 63 < 64 ∧ 31 < 32 ∧ getPixel (setPixel clearFramebuffer 63 31 true) 63 31 = true := by
  decide

/-- The three cases of a tick: running, waiting with the timers on, waiting with the timers off; and halted. -/
theorem witness_TickCountsTimersDown :
    State.reset.run = .running ∧
    ((∃ x, ({ State.reset with run := .awaitingKey 15, cfg := { defaultConfig with timersRunInKeywait := true } } : State).run =
      .awaitingKey x) ∧ ({ defaultConfig with timersRunInKeywait := true } : Config).timersRunInKeywait = true) ∧
    ((∃ x, ({ State.reset with run := .awaitingKey 15 } : State).run = .awaitingKey x) ∧
      State.reset.cfg.timersRunInKeywait = false) ∧
    ({ State.reset with run := .halted .fetchFault 0xFFF none } : State).isHalted = true :=
  ⟨rfl, ⟨⟨15, rfl⟩, rfl⟩, ⟨⟨15, rfl⟩, rfl⟩, rfl⟩

/-- A step that goes on, one that halts, and one in `Halted`, where ST is 0 and the latch 1 (log entry 10). -/
theorem witness_SoundLatchFollowsStAtStepEnd :
    seen (·.isHalted) (doCommand (.step .idle) { ready [0x00, 0xE0] with st := 5 }) = some false ∧
    seen (·.isHalted) (doCommand (.step .idle) { ready [0x00, 0xEE] with soundOn := true }) = some true ∧
    seen (fun t => (t.isHalted, t.soundOn))
      (doCommand (.step .idle) { State.reset with run := .halted .fetchFault 0xFFF none, soundOn := true }) =
        some (true, true) := by decide

/-- The last key, and the first value that names none. -/
theorem witness_KeySkipsReadTheKeyLevels :
    let s := { inExec [(0, 15), (1, 16)] with input := ⟨0x8000, none, 0⟩ }
    (((s.getV 0).toNat ≤ 15 → true = s.input.keysDown.getLsbD (s.getV 0).toNat) ∧ ((s.getV 0).toNat > 15 → true = false)) ∧
    (((s.getV 1).toNat ≤ 15 → false = s.input.keysDown.getLsbD (s.getV 1).toNat) ∧ ((s.getV 1).toNat > 15 → false = false)) := by
  decide

theorem witness_KeyWaitStepTakesOneEvent :
    let s := { State.reset with run := .awaitingKey 15 }
    s.run = .awaitingKey 15 ∧ s.input = .idle ∧ (⟨0, some 15, 0⟩ : StepInput).keyEvent = some 15 ∧
    (⟨0xFFFF, none, 0⟩ : StepInput).keyEvent = none := by decide

theorem witness_KeyWaitWithoutEventNeverEnds :
    let s := { State.reset with run := .awaitingKey 3, pending := [.step .idle, .step ⟨0xFFFF, none, 9⟩, .tick] }
    s.run = .awaitingKey 3 ∧ s.input = .idle ∧ s.pending = [.step .idle, .step ⟨0xFFFF, none, 9⟩] ++ [.tick] ∧
    ∀ c ∈ [Command.step .idle, .step ⟨0xFFFF, none, 9⟩], ∃ input : StepInput, c = .step input ∧ input.keyEvent = none :=
  ⟨rfl, rfl, rfl, by simp [StepInput.idle]⟩

/-- The last address from which three bytes fit; memory holds something and is canonical. -/
theorem witness_BcdStoresThreeDigits :
    let s := { inExec [(0, 42)] with i := 0xFFD, mem := [(0x300, 7)] }
    Memory.wf (resetByte s.cfg) s.mem ∧ s.i.toNat + 3 ≤ 4096 := by decide

theorem witness_BlockStoreWritesRegisters :
    let s := { inExec [(15, 42)] with i := 0xFF0, mem := [(0x300, 7)] }
    Memory.wf (resetByte s.cfg) s.mem ∧ s.i.toNat + (15 : Reg).val + 1 ≤ 4096 := by decide

/-- Both clauses, one address apart. -/
theorem witness_BlockLoadReadsRegisters :
    ({ inExec [] with i := 0xFF0 } : State).i.toNat + (15 : Reg).val ≤ 0xFFF ∧
    ({ inExec [] with i := 0xFF1 } : State).i.toNat + (15 : Reg).val > 0xFFF := by decide

theorem witness_StoresOutsideMemoryAreFatal :
    ({ inExec [] with i := 0xFFE } : State).i.toNat + 2 > 0xFFF ∧
    ({ inExec [] with i := 0x1000 } : State).i.toNat + (0 : Reg).val > 0xFFF := by decide

theorem witness_StoreThenLoadRoundTrips :
    let s := { inExec [(0, 0x11), (3, 0x44)] with i := 0xFFC }
    Memory.wf (resetByte s.cfg) s.mem ∧ s.i.toNat + (3 : Reg).val ≤ 0xFFF ∧ (3 : Reg) ≤ 3 ∧ (3 : Reg) < 4 := by decide

/-- The fetching state is the one the store left, moved to the stored bytes. -/
theorem witness_FetchSeesStoredBytes :
    let s := { inExec [(0, 0x12), (1, 0xF0)] with i := 0xFFE }
    Memory.wf (resetByte s.cfg) s.mem ∧ (1 : Reg) ≤ 1 ∧ s.i.toNat + (1 : Reg).val ≤ 0xFFF ∧
    seen (fun t => ({ t with pc := s.i } : State).fetchWord) (exec (.storeRegs 1) s) = some 0x12F0 := by decide

/-- At the last address a fetch can start from, with a scripted step and with none. -/
theorem witness_StepRunsTheDecodedInstruction :
    let s := { State.reset with pc := 0xFFE, mem := [(0xFFE, 0x12), (0xFFF, 0xF0)], pending := [.step .idle, .tick] }
    s.run = .running ∧ s.pc.toNat + 1 ≤ 0xFFF ∧
    decode [s.readByte s.pc.toNat, s.readByte (s.pc.toNat + 1)] = .ok (.jp 0x2F0, []) ∧
    s.pending = .step .idle :: [.tick] ∧ ({ s with pending := [] } : State).pending = [] := by decide

theorem witness_UnknownOpcodeIsSkipped :
    let s := { State.reset with pc := 0xFFE, mem := [(0xFFE, 0xF0), (0xFFF, 0xFF)], pending := [.step .idle] }
    s.run = .running ∧ s.pc.toNat + 1 ≤ 0xFFF ∧ s.input = .idle ∧ s.pending = .step .idle :: [] ∧
    unknownSpace (wordOfBytes (s.readByte s.pc.toNat) (s.readByte (s.pc.toNat + 1))) = true := by decide

theorem witness_FetchOutsideMemoryIsFatal :
    let s := { ready [] with pc := 0xFFF }
    s.run = .running ∧ s.pc.toNat ≥ 0xFFF ∧ s.input = .idle ∧ s.pending = .step .idle :: [] := by decide

/-- Two steps that end at 0x1000, past the last byte. -/
theorem witness_EmptyMemoryIsSkipped :
    let s := { State.reset with pc := 0xFFC, pending := [.step .idle, .step .idle] }
    s.run = .running ∧ s.input = .idle ∧ s.pending = [.step .idle, .step .idle] ++ [] ∧
    (∀ c ∈ [Command.step .idle, .step .idle], ∃ input : StepInput, c = .step input) ∧ s.pc.toNat + 2 * 2 ≤ 4096 ∧
    ∀ k, s.pc.toNat ≤ k → k ≤ 0xFFF → s.readByte k = 0 := by
  refine ⟨rfl, rfl, rfl, by simp, by decide, fun k h1 _ => ?_⟩
  have h : ¬ k < 0x0A0 := by have : 0xFFC ≤ k := h1; omega
  show resetByte defaultConfig k = 0
  simp [resetByte, fontBase, fontSize, h]

/-- A fatal step: a return with an empty stack. -/
theorem witness_FatalStepRestoresTheState :
    let s := { ready [0x00, 0xEE] with soundOn := true }
    s.run = .running ∧ s.input = .idle ∧ s.pending = .step .idle :: [] ∧ seen (·.isHalted) (step s) = some true := by decide

theorem witness_HaltedIgnoresStepAndTick :
    let s := { State.reset with run := .halted .fetchFault 0xFFF none, pending := [.tick, .step .idle, .reset] }
    s.run = .halted .fetchFault 0xFFF none ∧ s.pending = [.tick, .step .idle] ++ [.reset] ∧
    (∀ d ∈ [Command.tick, .step .idle], d = .tick ∨ ∃ input, d = .step input) ∧ ({ s with pending := [] } : State).pending = [] :=
  ⟨rfl, rfl, by simp, rfl⟩

theorem witness_ResetGivesEveryElementItsValue : 0x050 ≤ 0x09F ∧ 0x09F ≤ 0xFFF ∧ State.reset.readByte 0x09F = 0x80 := by decide

/-- The longest ROM that fits, the shortest that does not, and a `Load` that comes too late. -/
theorem witness_LoadWritesTheRomOrFails :
    State.reset.loadable = true ∧ Memory.wf (resetByte State.reset.cfg) State.reset.mem ∧
    (List.replicate 3584 (1 : Byte)).length ≤ 3584 ∧ (List.replicate 3585 (1 : Byte)).length > 3584 ∧
    ({ State.reset with loadable := false } : State).loadable = false := by
  rw [List.length_replicate, List.length_replicate]; decide

theorem witness_DecodeOfEncodeIsTheInstruction : (Instr.drw 15 0 15).wf = true := by decide

theorem witness_EncodeOfDecodeIsTheWord : decodeWord 0x5FF0 = .ok (.seReg 15 15 0) := by decide

theorem witness_SelectedRowIsTheDecodedRow : (Instr.ldF 0).row.selects 0xFF29 = true := by decide

/-- Both clauses, at neighbouring words. -/
theorem witness_UnknownSpaceIsExact : unknownSpace 0x8008 = true ∧ unknownSpace 0x8007 = false := by decide

/-- The reset state meets the invariant, and its next step, with a scripted `Step`, is a next state. -/
theorem witness_StepKeepsTheInvariant : (ready []).Inv ∧ seen (·.pc) (step (ready [])) = some 0x202 :=
  ⟨⟨by decide, show 0 ≤ 16 by decide, nofun, by decide, rfl, fun _ => rfl⟩, by decide⟩

theorem witness_StepKeepsTheConfiguration : seen (·.pc) (step (ready [0x12, 0x00])) = some 0x200 := by decide

theorem witness_OnlyListedRegistersAreWritten :
    seen (·.getV 15) (exec (.addReg 0 1) (inExec [(0, 0xFF), (1, 1)])) = some 1 ∧
    (5 : Reg) ∉ (Instr.addReg 0 1).regsWritten := by decide

/-- Each clause has an instruction it speaks of, and one it leaves out. -/
theorem witness_EachElementHasItsWriters :
    (∃ t, exec (.jp 0x300) (inExec []) = .next t) ∧ (Instr.jp 0x300).storesToMemory = false ∧
    (Instr.jp 0x300).drawsToDisplay = false ∧ (Instr.jp 0x300).touchesStack = false ∧ (Instr.jp 0x300).writesI = false ∧
    (∀ x, Instr.jp 0x300 ≠ .ldDtVx x) ∧ (∀ x, Instr.jp 0x300 ≠ .ldStVx x) ∧ (Instr.ldI 0x300).writesPc = false :=
  ⟨⟨_, rfl⟩, rfl, rfl, rfl, rfl, nofun, nofun, rfl⟩

/-- Inputs that differ where the instruction does not look. -/
theorem witness_InstructionsReadOnlyTheirInputs :
    let j : StepInput := ⟨0, some 3, 0xFF⟩
    ((Instr.skp 0).readsKeys = true → j.keysDown = (inExec []).input.keysDown) ∧
    ((Instr.skp 0).readsRnd = true → j.rnd = (inExec []).input.rnd) ∧ ∃ t, exec (.skp 0) (inExec []) = .next t :=
  ⟨fun _ => rfl, nofun, ⟨_, rfl⟩⟩

/-- A draw, and an instruction that draws nothing. -/
theorem witness_DisplayAndSoundLagTheirState :
    (inExec []).out = none ∧ (inExec []).isHalted = false ∧
    seen (·.out) (exec (.drw 0 0 0) (inExec [])) = some (some (.present clearFramebuffer)) ∧
    seen (·.out) (exec (.jp 0x300) (inExec [])) = some none ∧
    seen (·.st) (doCommand .tick { State.reset with st := 1, soundOn := true }) = some 0 := by decide

/-- A step that emits each kind of event. -/
theorem witness_EventsComeFromTheirInstructions :
    (inExec []).out = none ∧ seen (·.out) (exec (.drw 0 0 0) (inExec [])) = some (some (.present clearFramebuffer)) ∧
    seen (·.out) (exec (.ret 0) (inExec [])) = some (some (.fatal .stackUnderflow 0x200 (some 0x00EE))) := by decide

end Sys2Proof.Tests
end

section
/-! The arithmetic instructions of spec file 40_alu.md: the copies (R101, R103) and the sum and differences with their
flags (R107, R108, R110). Each answer is read off `exec_of_case`; the register laws and the frames of `setV` and
`setResultAndFlag` give the rest. -/

namespace Sys2Proof.Machine

/-! ### Results and flags as numbers -/

/-- The byte of a flag given by a decidable condition (R36). -/
theorem flagByte_decide (p : Prop) [Decidable p] : flagByte (decide p) = if p then 1 else 0 := by
  by_cases h : p <;> simp [h]

/-- VF holds the flag, also with X = F: the flag is written last (R100). -/
theorem State.getV_vf_setResultAndFlag (s : State) (x : Reg) (b : Byte) (f : Bool) :
    (s.setResultAndFlag x b f).getV 15 = flagByte f := by
  rw [s.getV_setResultAndFlag]
  exact if_pos rfl

/-- With X not F the result stands in VX. -/
theorem State.getV_result_setResultAndFlag (s : State) {x : Reg} (hx : x ≠ 15) (b : Byte) (f : Bool) :
    (s.setResultAndFlag x b f).getV x = b := by
  simp [vf, hx]

/-- A byte difference modulo 256 (R12), as a sum that does not go below zero. -/
theorem toNat_sub_byte (p q : Byte) : (p - q).toNat = (p.toNat + 256 - q.toNat) % 256 := by
  have hq : q.toNat < 256 := q.isLt
  rw [BitVec.toNat_sub]
  omega

/-- What 8XY5 and 8XY7 share: VX takes `p - q` and VF its not-borrow (R108, R110). -/
theorem State.setResultAndFlag_sub (s : State) (x : Reg) (p q : Byte) :
    (s.setResultAndFlag x (p - q) (notBorrow p q)).getV 15 = (if p.toNat ≥ q.toNat then 1 else 0) ∧
    (x ≠ 15 → ((s.setResultAndFlag x (p - q) (notBorrow p q)).getV x).toNat = (p.toNat + 256 - q.toNat) % 256) ∧
    OnlyRegs s (s.setResultAndFlag x (p - q) (notBorrow p q)) [x, 15] := by
  refine ⟨?flag, fun hx => ?result, onlyRegs_setResultAndFlag ..⟩
  case flag => rw [s.getV_vf_setResultAndFlag, notBorrow, flagByte_decide]
  case result => rw [s.getV_result_setResultAndFlag hx, toNat_sub_byte]

/-! ### The obligations -/

/-- Settles O1: the answer is `setV`, whose frame is VX alone. -/
theorem loadImmediateSetsVx : Obligations.LoadImmediateSetsVx := fun x nn s =>
  ⟨_, exec_of_case (.ldImm x nn), s.getV_setV_same x nn, onlyRegs_setV s x nn⟩

/-- Settles O3: the answer is `setV` of the old V[Y]. -/
theorem copyRegisterSetsVx : Obligations.CopyRegisterSetsVx := fun x y s =>
  ⟨_, exec_of_case (.ldReg x y), s.getV_setV_same x _, onlyRegs_setV s x _⟩

/-- Settles O5: the flag is the carry of the two old operands, written after the sum. -/
theorem addRegistersSetsCarry : Obligations.AddRegistersSetsCarry := by
  intro x y s
  refine ⟨_, exec_of_case (.addReg x y), ?carry, fun hx => ?sum, onlyRegs_setResultAndFlag ..⟩
  case carry => rw [s.getV_vf_setResultAndFlag, carryOut, flagByte_decide]
  case sum => rw [s.getV_result_setResultAndFlag hx, BitVec.toNat_add]

/-- Settles O6: both directions are `State.setResultAndFlag_sub`, with the operands exchanged. -/
theorem subtractionsSetNotBorrow : Obligations.SubtractionsSetNotBorrow := fun x y s =>
  ⟨⟨_, exec_of_case (.subReg x y), s.setResultAndFlag_sub x (s.getV x) (s.getV y)⟩,
    ⟨_, exec_of_case (.subn x y), s.setResultAndFlag_sub x (s.getV y) (s.getV x)⟩⟩

end Sys2Proof.Machine
end

section
/-! The jump and the immediate skips of spec file 41_control_flow.md (R142, R144, R145). Both write PC alone: the jump by
`setPc`, a skip by `skipIf`. -/

namespace Sys2Proof.Machine

/-! ### Targets and conditions -/

/-- A 12-bit address is not changed by widening it to PC's width. -/
theorem toNat_zext16 (nnn : Addr) : (zext16 nnn).toNat = nnn.toNat :=
  BitVec.toNat_setWidth_of_le (by decide)

theorem onlyPc_setPc (s : State) (w : Word) : OnlyPc s (s.setPc w) := .intro rfl

/-- The skip of R149 on a test `c` that decides `p`: 2 bytes exactly when `p` holds, and PC is all it writes. -/
theorem State.skipIf_spec (s : State) {c : Bool} {p : Prop} [Decidable p] (h : c = true ↔ p) :
    (s.skipIf c).pc = (if p then s.pc + 2 else s.pc) ∧ OnlyPc s (s.skipIf c) := by
  refine ⟨?pc, onlyPc_skipIf s c⟩
  case pc => simp only [State.skipIf_pc, h]

/-! ### The obligations -/

/-- Settles O10: the answer is `setPc` of the widened address. -/
theorem jumpSetsPcToAddress : Obligations.JumpSetsPcToAddress := fun nnn s =>
  ⟨_, exec_of_case (.jp nnn), toNat_zext16 nnn, onlyPc_setPc s _⟩

/-- Settles O14: both skips are `State.skipIf_spec`, on the test for equality and on its opposite. -/
theorem immediateSkipsMovePcByTwo : Obligations.ImmediateSkipsMovePcByTwo := fun x nn s =>
  ⟨⟨_, exec_of_case (.seImm x nn), s.skipIf_spec beq_iff_eq⟩,
    ⟨_, exec_of_case (.sneImm x nn), s.skipIf_spec bne_iff_ne⟩⟩

end Sys2Proof.Machine
end

section
/-! The screen clear of spec file 42_display.md (R177): it writes the framebuffer and the output slot, and no more. -/

namespace Sys2Proof.Machine

/-- A new frame shown with an event: the framebuffer and the output slot are the whole write, so registers and memory stay. -/
theorem State.emit_setFb_frame (s : State) (fb : Framebuffer) (e : Event) :
    (s.setFb fb).emit e = { s with fb := fb, out := some e } ∧
    SameRegsBut s ((s.setFb fb).emit e) [] ∧ SameMemory s ((s.setFb fb).emit e) := by
  refine ⟨rfl, fun r _ => ?regs, fun a => ?mem⟩
  case regs => rw [State.emit_getV, State.setFb_getV]
  case mem => rw [State.emit_readByte, State.setFb_readByte]

/-- Settles O17: the answer is the clear frame, whose every pixel is 0 (`getPixel_clear`), and the event `Clear`. -/
theorem clearScreenUnsetsEveryPixel : Obligations.ClearScreenUnsetsEveryPixel := fun z s =>
  ⟨_, exec_of_case (.cls z), fun px py _ _ => getPixel_clear px py, State.emit_out .., s.emit_setFb_frame ..⟩

end Sys2Proof.Machine
end

section
/-! The encoding of spec file 30_encoding.md: the decoder and the encoder are inverse to each other, the rows of the opcode
table do not overlap, and the unknown space is the one R82 lists. A word is taken apart by its fields (Laws/Encoding), never
by its value. -/

namespace Sys2Proof

/-! ### Decode after encode -/

/-- Decoding an encoded word: the family selects the row, or with N or NN the row of its sub-dispatch, and the fields give the
operands back. -/
theorem decodeWord_encode (i : Instr) : decodeWord (encode i) = .ok i := by
  cases i with
  | cls | ret => simp [encode, decodeWord, decode0]
  | ldReg | orReg | andReg | xorReg | addReg | subReg | shr | subn | shl => simp [encode, decodeWord, decode8]
  | skp | sknp => simp [encode, decodeWord, decodeE]
  | ldVxDt | ldVxK | ldDtVx | ldStVx | addI | ldF | ldB | storeRegs | loadRegs => simp [encode, decodeWord, decodeF]
  | _ => simp [encode, decodeWord]

/-- The bytes as memory holds them join to the word again (R54), so they decode as the word does. -/
theorem decode_encodeBytes (i : Instr) : decode (encodeBytes i) = .ok (i, []) := by
  simp [encodeBytes, decode, decodeWord_encode]

/-- Settles O47: every row's fields are read back from its encoding, as a word and as two bytes. -/
theorem decodeOfEncodeIsTheInstruction : Obligations.DecodeOfEncodeIsTheInstruction :=
  fun i _ => ⟨decodeWord_encode i, decode_encodeBytes i⟩

/-! ### A word of a known family -/

section
variable {op : Word} {f : Nibble}

theorem wordNNN_of_family (h : opF op = f) : wordNNN f (opNNN op) = op := by
  rw [← h, wordNNN_fields]

theorem wordXNN_of_family (h : opF op = f) : wordXNN f (regBits (opX op)) (opNN op) = op := by
  rw [← h, wordXNN_fields_reg]

theorem word4_of_family (h : opF op = f) : word4 f (regBits (opX op)) (regBits (opY op)) (opN op) = op := by
  rw [← h, word4_fields]

/-- A row that fixes NN (R78, R80, R81). -/
theorem wordXNN_of_familyNN {nn : Byte} (h : opF op = f ∧ opNN op = nn) : wordXNN f (opZ op) nn = op := by
  rw [← h.1, ← h.2, wordXNN_fields]

/-- A row that fixes N (R79). -/
theorem word4_of_familyN {n : Nibble} (h : opF op = f ∧ opN op = n) :
    word4 f (regBits (opX op)) (regBits (opY op)) n = op := by
  rw [← h.1, ← h.2, word4_fields]

end

/-! ### Encode after decode -/

section
variable {op : Word} {i : Instr} {k : Nat}

theorem opF_eq_ofNat (h : (opF op).toNat = k) : opF op = BitVec.ofNat 4 k := by simp [← h]
theorem opN_eq_ofNat (h : (opN op).toNat = k) : opN op = BitVec.ofNat 4 k := by simp [← h]
theorem opNN_eq_ofNat (h : (opNN op).toNat = k) : opNN op = BitVec.ofNat 8 k := by simp [← h]

/-- A word that decodes is the encoding of its instruction: the decoder drops no field. One case per family, in the order of
`decodeWord`; families 0x0, 0xE and 0xF fix NN, family 0x8 fixes N. -/
theorem encode_of_decodeWord (h : decodeWord op = .ok i) : encode i = op := by
  unfold decodeWord at h
  split at h
  case h_17 => cases h
  all_goals rename_i hf; replace hf := opF_eq_ofNat hf
  case h_1 | h_15 | h_16 =>
    simp only [decode0, decodeE, decodeF] at h
    split at h
    all_goals cases h
    all_goals exact wordXNN_of_familyNN ⟨hf, opNN_eq_ofNat ‹_›⟩
  case h_9 =>
    simp only [decode8] at h
    split at h
    all_goals cases h
    all_goals exact word4_of_familyN ⟨hf, opN_eq_ofNat ‹_›⟩
  case h_2 | h_3 | h_11 | h_12 => cases h; exact wordNNN_of_family hf
  case h_4 | h_5 | h_7 | h_8 | h_13 => cases h; exact wordXNN_of_family hf
  case h_6 | h_10 | h_14 => cases h; exact word4_of_family hf

end

/-! ### Rows of the opcode table -/

/-- The encoding of an instruction selects the instruction's row: the family `Laws.RowPattern`, gathered. -/
theorem row_selects_encode : ∀ i : Instr, i.row.selects (encode i) = true
  | .cls z => Laws.RowPattern.cls z
  | .ret z => Laws.RowPattern.ret z
  | .jp nnn => Laws.RowPattern.jp nnn
  | .call nnn => Laws.RowPattern.call nnn
  | .seImm x nn => Laws.RowPattern.seImm x nn
  | .sneImm x nn => Laws.RowPattern.sneImm x nn
  | .seReg x y n => Laws.RowPattern.seReg x y n
  | .ldImm x nn => Laws.RowPattern.ldImm x nn
  | .addImm x nn => Laws.RowPattern.addImm x nn
  | .ldReg x y => Laws.RowPattern.ldReg x y
  | .orReg x y => Laws.RowPattern.orReg x y
  | .andReg x y => Laws.RowPattern.andReg x y
  | .xorReg x y => Laws.RowPattern.xorReg x y
  | .addReg x y => Laws.RowPattern.addReg x y
  | .subReg x y => Laws.RowPattern.subReg x y
  | .shr x y => Laws.RowPattern.shr x y
  | .subn x y => Laws.RowPattern.subn x y
  | .shl x y => Laws.RowPattern.shl x y
  | .sneReg x y n => Laws.RowPattern.sneReg x y n
  | .ldI nnn => Laws.RowPattern.ldI nnn
  | .jpV0 nnn => Laws.RowPattern.jpV0 nnn
  | .rnd x nn => Laws.RowPattern.rnd x nn
  | .drw x y n => Laws.RowPattern.drw x y n
  | .skp x => Laws.RowPattern.skp x
  | .sknp x => Laws.RowPattern.sknp x
  | .ldVxDt x => Laws.RowPattern.ldVxDt x
  | .ldVxK x => Laws.RowPattern.ldVxK x
  | .ldDtVx x => Laws.RowPattern.ldDtVx x
  | .ldStVx x => Laws.RowPattern.ldStVx x
  | .addI x => Laws.RowPattern.addI x
  | .ldF x => Laws.RowPattern.ldF x
  | .ldB x => Laws.RowPattern.ldB x
  | .storeRegs x => Laws.RowPattern.storeRegs x
  | .loadRegs x => Laws.RowPattern.loadRegs x

/-- Settles O48: the word is its instruction's encoding, and an encoding selects its own row. -/
theorem encodeOfDecodeIsTheWord : Obligations.EncodeOfDecodeIsTheWord := fun op i h => by
  have henc : encode i = op := encode_of_decodeWord h
  exact ⟨henc, henc ▸ row_selects_encode i⟩

section
variable {op : Word} {f : Nibble}

theorem opF_of_selects (h : OpcodeRow.selects ⟨word4 f 0 0 0, 0xF000⟩ op = true) : opF op = f := by
  simpa using (selects_family op f).symm.trans h

theorem opF_opN_of_selects {n : Nibble} (h : OpcodeRow.selects ⟨word4 f 0 0 n, 0xF00F⟩ op = true) :
    opF op = f ∧ opN op = n := by
  simpa using (selects_familyN op f n).symm.trans h

theorem opF_opNN_of_selects {nn : Byte} (h : OpcodeRow.selects ⟨wordXNN f 0 nn, 0xF0FF⟩ op = true) :
    opF op = f ∧ opNN op = nn := by
  simpa using (selects_familyNN op f nn).symm.trans h

end

/-- A word that selects a row is the encoding of an instruction of that row, with the word's own fields as operands. -/
theorem exists_encode_of_selects {op : Word} {i : Instr} (h : i.row.selects op = true) :
    ∃ j, encode j = op ∧ j.row = i.row := by
  cases i with
  | cls => exact ⟨.cls (opZ op), wordXNN_of_familyNN (opF_opNN_of_selects h), rfl⟩
  | ret => exact ⟨.ret (opZ op), wordXNN_of_familyNN (opF_opNN_of_selects h), rfl⟩
  | jp => exact ⟨.jp (opNNN op), wordNNN_of_family (opF_of_selects h), rfl⟩
  | call => exact ⟨.call (opNNN op), wordNNN_of_family (opF_of_selects h), rfl⟩
  | seImm => exact ⟨.seImm (opX op) (opNN op), wordXNN_of_family (opF_of_selects h), rfl⟩
  | sneImm => exact ⟨.sneImm (opX op) (opNN op), wordXNN_of_family (opF_of_selects h), rfl⟩
  | seReg => exact ⟨.seReg (opX op) (opY op) (opN op), word4_of_family (opF_of_selects h), rfl⟩
  | ldImm => exact ⟨.ldImm (opX op) (opNN op), wordXNN_of_family (opF_of_selects h), rfl⟩
  | addImm => exact ⟨.addImm (opX op) (opNN op), wordXNN_of_family (opF_of_selects h), rfl⟩
  | ldReg => exact ⟨.ldReg (opX op) (opY op), word4_of_familyN (opF_opN_of_selects h), rfl⟩
  | orReg => exact ⟨.orReg (opX op) (opY op), word4_of_familyN (opF_opN_of_selects h), rfl⟩
  | andReg => exact ⟨.andReg (opX op) (opY op), word4_of_familyN (opF_opN_of_selects h), rfl⟩
  | xorReg => exact ⟨.xorReg (opX op) (opY op), word4_of_familyN (opF_opN_of_selects h), rfl⟩
  | addReg => exact ⟨.addReg (opX op) (opY op), word4_of_familyN (opF_opN_of_selects h), rfl⟩
  | subReg => exact ⟨.subReg (opX op) (opY op), word4_of_familyN (opF_opN_of_selects h), rfl⟩
  | shr => exact ⟨.shr (opX op) (opY op), word4_of_familyN (opF_opN_of_selects h), rfl⟩
  | subn => exact ⟨.subn (opX op) (opY op), word4_of_familyN (opF_opN_of_selects h), rfl⟩
  | shl => exact ⟨.shl (opX op) (opY op), word4_of_familyN (opF_opN_of_selects h), rfl⟩
  | sneReg => exact ⟨.sneReg (opX op) (opY op) (opN op), word4_of_family (opF_of_selects h), rfl⟩
  | ldI => exact ⟨.ldI (opNNN op), wordNNN_of_family (opF_of_selects h), rfl⟩
  | jpV0 => exact ⟨.jpV0 (opNNN op), wordNNN_of_family (opF_of_selects h), rfl⟩
  | rnd => exact ⟨.rnd (opX op) (opNN op), wordXNN_of_family (opF_of_selects h), rfl⟩
  | drw => exact ⟨.drw (opX op) (opY op) (opN op), word4_of_family (opF_of_selects h), rfl⟩
  | skp => exact ⟨.skp (opX op), wordXNN_of_familyNN (opF_opNN_of_selects h), rfl⟩
  | sknp => exact ⟨.sknp (opX op), wordXNN_of_familyNN (opF_opNN_of_selects h), rfl⟩
  | ldVxDt => exact ⟨.ldVxDt (opX op), wordXNN_of_familyNN (opF_opNN_of_selects h), rfl⟩
  | ldVxK => exact ⟨.ldVxK (opX op), wordXNN_of_familyNN (opF_opNN_of_selects h), rfl⟩
  | ldDtVx => exact ⟨.ldDtVx (opX op), wordXNN_of_familyNN (opF_opNN_of_selects h), rfl⟩
  | ldStVx => exact ⟨.ldStVx (opX op), wordXNN_of_familyNN (opF_opNN_of_selects h), rfl⟩
  | addI => exact ⟨.addI (opX op), wordXNN_of_familyNN (opF_opNN_of_selects h), rfl⟩
  | ldF => exact ⟨.ldF (opX op), wordXNN_of_familyNN (opF_opNN_of_selects h), rfl⟩
  | ldB => exact ⟨.ldB (opX op), wordXNN_of_familyNN (opF_opNN_of_selects h), rfl⟩
  | storeRegs => exact ⟨.storeRegs (opX op), wordXNN_of_familyNN (opF_opNN_of_selects h), rfl⟩
  | loadRegs => exact ⟨.loadRegs (opX op), wordXNN_of_familyNN (opF_opNN_of_selects h), rfl⟩

/-- Settles O49: the selecting word is an encoding of the row, and decoding gives the encoded instruction back. -/
theorem selectedRowIsTheDecodedRow : Obligations.SelectedRowIsTheDecodedRow := fun op i h => by
  obtain ⟨j, rfl, hrow⟩ := exists_encode_of_selects h
  exact ⟨j, decodeWord_encode j, hrow⟩

/-! ### The unknown space -/

/-- No encoding lies in the unknown space. -/
theorem unknownSpace_encode (i : Instr) : unknownSpace (encode i) = false := by
  cases i <;> simp [encode, unknownSpace]

/-- Families 0x0, 0xE and 0xF reject the NN that no row of theirs fixes, and family 0x8 the N (R78 to R81). -/
theorem unknownSpace_of_unlisted {op : Word}
    (h : opF op = 0x0 ∧ opNN op ∉ [0xE0, 0xEE] ∨ opF op = 0x8 ∧ opN op ∉ [0, 1, 2, 3, 4, 5, 6, 7, 0xE] ∨
      opF op = 0xE ∧ opNN op ∉ [0x9E, 0xA1] ∨
      opF op = 0xF ∧ opNN op ∉ [0x07, 0x0A, 0x15, 0x18, 0x1E, 0x29, 0x33, 0x55, 0x65]) :
    unknownSpace op = true := by
  have hN : ∀ n : Nibble, n ∉ [0, 1, 2, 3, 4, 5, 6, 7, 0xE] →
      [0x8, 0x9, 0xA, 0xB, 0xC, 0xD, 0xF].contains n = true := by decide
  rcases h with ⟨hf, hn⟩ | ⟨hf, hn⟩ | ⟨hf, hn⟩ | ⟨hf, hn⟩
  · simpa [unknownSpace, hf] using hn
  · simpa [unknownSpace, hf] using hN _ hn
  · simpa [unknownSpace, hf] using hn
  · simpa [unknownSpace, hf] using hn

/-- A word the decoder rejects lies in the unknown space, and the rejection names it. -/
theorem unknownSpace_of_decodeWord_error {op : Word} {e : Reject} (h : decodeWord op = .error e) :
    unknownSpace op = true ∧ e = .unknownOpcode op := by
  unfold decodeWord at h
  split at h
  case h_17 =>
    have hlt : (opF op).toNat < 16 := (opF op).isLt
    simp only [imp_false] at *
    omega
  all_goals rename_i hf; replace hf := opF_eq_ofNat hf
  case h_1 | h_9 | h_15 | h_16 =>
    simp only [decode0, decode8, decodeE, decodeF] at h
    split at h
    all_goals cases h
    refine ⟨unknownSpace_of_unlisted ?_, rfl⟩
    simp_all [← BitVec.toNat_inj]
  all_goals cases h

/-- Settles O50: the decoder accepts encodings alone, which lie outside the space, and rejects only words inside it. -/
theorem unknownSpaceIsExact : Obligations.UnknownSpaceIsExact := by
  intro op
  cases hd : decodeWord op with
  | ok i =>
    have hout : unknownSpace op = false := encode_of_decodeWord hd ▸ unknownSpace_encode i
    exact ⟨by simp [hout], fun _ => ⟨i, rfl⟩⟩
  | error e =>
    obtain ⟨hin, rfl⟩ := unknownSpace_of_decodeWord_error hd
    exact ⟨fun _ => rfl, by simp [hin]⟩

/-- Settles O51: closed words, decoded by computation. -/
theorem sampleWordsDecode : Obligations.SampleWordsDecode := by
  unfold Obligations.SampleWordsDecode; decide

end Sys2Proof
end

section
/-! What an execute phase may write, element by element (R23, R25, R27, R28, R31, R51, R283, R284). Every lemma is one case split
on `ExecCase`: the cases that write the element are named, the others leave it by definition. -/

namespace Sys2Proof.Machine

variable {s t : State} {i : Instr}

/-! ### The fields no instruction writes -/

/-- `t` has the configuration, the sound latch and the model's own fields of `s`. -/
structure SameContext (s t : State) : Prop where
  cfg : t.cfg = s.cfg
  soundOn : t.soundOn = s.soundOn
  input : t.input = s.input
  loadable : t.loadable = s.loadable
  pending : t.pending = s.pending
  draws : t.draws = s.draws

theorem SameContext.trans {u : State} (h : SameContext s t) (k : SameContext t u) : SameContext s u :=
  ⟨k.cfg.trans h.cfg, k.soundOn.trans h.soundOn, k.input.trans h.input, k.loadable.trans h.loadable,
    k.pending.trans h.pending, k.draws.trans h.draws⟩

theorem execCase_sameContext (h : ExecCase s i t) : SameContext s t := by
  cases h with
  | ldB | storeRegs | loadRegs => constructor <;> simp
  | _ => exact ⟨rfl, rfl, rfl, rfl, rfl, rfl⟩

/-! ### The run state -/

/-- An execute phase raises a fatal condition, keeps the run state, or enters the key wait (R263, R213). -/
theorem execCase_run (h : ExecCase s i t) :
    (i.mayBeFatal = true ∧ ∃ c, t = s.raiseFatal c (encode i)) ∨ t.run = s.run ∨
      ∃ x, i = .ldVxK x ∧ t = s.setRun (.awaitingKey x) := by
  cases h with
  | retFatal | callFatal | drwAddress | drwFrame | ldBFatal | storeRegsFatal | loadRegsFatal => exact .inl ⟨rfl, _, rfl⟩
  | ldVxK x => exact .inr (.inr ⟨x, rfl, rfl⟩)
  | ldB | storeRegs | loadRegs => exact .inr (.inl (by simp))
  | _ => exact .inr (.inl rfl)

/-- Settles O55: some case holds of every instruction, and `execCase_run` reads off its run state. -/
theorem everyInstructionCompletes : Obligations.EveryInstructionCompletes := by
  intro i s
  obtain ⟨t, ht⟩ := execCase_exists i s
  refine ⟨t, exec_of_case ht, ?_⟩
  obtain ⟨hi, c, rfl⟩ | hrun | ⟨x, rfl, -⟩ := execCase_run ht
  · exact .inl ⟨hi, c, fatalEntry_raiseFatal s c _⟩
  · exact .inr (.inl hrun)
  · exact .inr (.inr ⟨x, rfl⟩)

/-! ### Registers -/

theorem SameRegsBut.of_v_eq (h : t.v = s.v) (rs : List Reg) : SameRegsBut s t rs := fun r _ => by
  rw [State.getV, h]; rfl

/-- Settles O56: a result goes through `setV`, `setResultAndFlag`, `loadBlock` or the collision flag, whose frames name what
they write. -/
theorem onlyListedRegistersAreWritten : Obligations.OnlyListedRegistersAreWritten := by
  intro i s t h
  cases exec_case h with
  | ldImm | addImm | ldReg | orReg | andReg | xorReg | rnd | ldVxDt => exact (onlyRegs_setV ..).2.1
  | addReg | subReg | shr | subn | shl => exact (onlyRegs_setResultAndFlag ..).2.1
  | loadRegs => exact (onlyRegs_loadBlock ..).2.1
  | drw x y n c => exact (onlyRegs_setV (s.setFb c.fb) 15 _).2.1
  | ldB | storeRegs => exact .of_v_eq (by simp) _
  | _ => exact .of_v_eq rfl _

/-! ### The other elements -/

theorem execCase_mem (h : ExecCase s i t) (hi : i.storesToMemory = false) : t.mem = s.mem := by
  cases h with
  | ldB | storeRegs => cases hi
  | loadRegs => simp
  | _ => rfl

theorem execCase_fb (h : ExecCase s i t) (hi : i.drawsToDisplay = false) : t.fb = s.fb := by
  cases h with
  | cls | drw => cases hi
  | ldB | storeRegs | loadRegs => simp
  | _ => rfl

theorem execCase_stack (h : ExecCase s i t) (hi : i.touchesStack = false) : t.stack = s.stack := by
  cases h with
  | ret | call => cases hi
  | ldB | storeRegs | loadRegs => simp
  | _ => rfl

theorem execCase_i (h : ExecCase s i t) (hi : i.writesI = false) : t.i = s.i := by
  cases h with
  | ldI | addI | ldF => cases hi
  | ldB | storeRegs | loadRegs => simp
  | _ => rfl

theorem execCase_dt (h : ExecCase s i t) (hi : ∀ x, i ≠ .ldDtVx x) : t.dt = s.dt := by
  cases h with
  | ldDtVx x => exact absurd rfl (hi x)
  | ldB | storeRegs | loadRegs => simp
  | _ => rfl

theorem execCase_st (h : ExecCase s i t) (hi : ∀ x, i ≠ .ldStVx x) : t.st = s.st := by
  cases h with
  | ldStVx x => exact absurd rfl (hi x)
  | ldB | storeRegs | loadRegs => simp
  | _ => rfl

/-- PC stays at its advance, or a fatal condition sets it back. -/
theorem execCase_pc (h : ExecCase s i t) (hi : i.writesPc = false) :
    t.pc = s.pc ∨ ∃ c, FatalEntry s t c (encode i) := by
  cases h with
  | ret | jp | call | seImm | sneImm | seReg | sneReg | jpV0 | skp | sknp => cases hi
  | retFatal | callFatal | drwAddress | drwFrame | ldBFatal | storeRegsFatal | loadRegsFatal =>
    exact .inr ⟨_, fatalEntry_raiseFatal ..⟩
  | ldB | storeRegs | loadRegs => exact .inl (by simp)
  | _ => exact .inl rfl

/-- Settles O57: one lemma per element. -/
theorem eachElementHasItsWriters : Obligations.EachElementHasItsWriters := by
  intro i s t h
  have hc : ExecCase s i t := exec_case h
  have hctx : SameContext s t := execCase_sameContext hc
  exact ⟨execCase_mem hc, execCase_fb hc, execCase_stack hc, execCase_i hc, execCase_dt hc, execCase_st hc,
    execCase_pc hc, hctx.soundOn, hctx.cfg, hctx.input, hctx.pending, hctx.draws⟩

/-! ### The inputs of the step -/

/-- Storing bytes does not look at the input latch. -/
theorem State.storeBytes_withInput (s : State) (j : StepInput) (a : Nat) (bs : List Byte) :
    ({ s with input := j } : State).storeBytes a bs = { s.storeBytes a bs with input := j } := by
  induction bs generalizing s a with
  | nil => rfl
  | cons b bs ih => exact ih (s.writeByte a b) (a + 1)

theorem State.keyIsDown_withInput (s : State) {j : StepInput} (h : j.keysDown = s.input.keysDown) (b : Byte) :
    ({ s with input := j } : State).keyIsDown b = s.keyIsDown b := by simp only [State.keyIsDown, h]

/-- The same case holds under other inputs, if those the instruction reads agree: only the key skips and CXNN look at the latch,
every other case is the same expression in the other elements. -/
theorem execCase_withInput {j : StepInput} (hkeys : i.readsKeys = true → j.keysDown = s.input.keysDown)
    (hrnd : i.readsRnd = true → j.rnd = s.input.rnd) (h : ExecCase s i t) :
    ExecCase { s with input := j } i { t with input := j } := by
  cases h with
  | skp x =>
    have hx : ExecCase { s with input := j } (.skp x) _ := .skp x
    rwa [s.keyIsDown_withInput (hkeys rfl)] at hx
  | sknp x =>
    have hx : ExecCase { s with input := j } (.sknp x) _ := .sknp x
    rwa [s.keyIsDown_withInput (hkeys rfl)] at hx
  | rnd x nn =>
    have hx : ExecCase { s with input := j } (.rnd x nn) _ := .rnd x nn
    rwa [show ({ s with input := j } : State).input.rnd = s.input.rnd from hrnd rfl] at hx
  | ldB x hr => exact s.storeBytes_withInput j .. ▸ .ldB x hr
  | storeRegs x hr => exact s.storeBytes_withInput j .. ▸ .storeRegs x hr
  | ret z rest target h => exact .ret z rest target h
  | retFatal z h => exact .retFatal z h
  | call nnn h => exact .call nnn h
  | callFatal nnn h hp => exact .callFatal nnn h hp
  | callIgnored nnn h hp => exact .callIgnored nnn h hp
  | drw x y n c hr hb => exact .drw x y n c hr hb
  | drwAddress x y n hr => exact .drwAddress x y n hr
  | drwFrame x y n hr hb => exact .drwFrame x y n hr hb
  | ldBFatal x hr => exact .ldBFatal x hr
  | storeRegsFatal x hr => exact .storeRegsFatal x hr
  | loadRegs x hr => exact .loadRegs x hr
  | loadRegsFatal x hr => exact .loadRegsFatal x hr
  | _ => constructor

/-- Settles O58: a case that holds under the one input holds under the other, with the answer's latch replaced. -/
theorem instructionsReadOnlyTheirInputs : Obligations.InstructionsReadOnlyTheirInputs := fun _ _ _ _ hk hr h =>
  exec_of_case (execCase_withInput hk hr (exec_case h))

/-! ### The output events -/

/-- Settles O59: from an empty slot, the cases that emit are the draw, the clear, the ignored call and the fatal entries. -/
theorem eventsComeFromTheirInstructions : Obligations.EventsComeFromTheirInstructions := by
  intro i s t hout h
  cases exec_case h with
  | drw x y n => exact ⟨rfl, x, y, n, rfl⟩
  | cls z => exact ⟨z, rfl⟩
  | callIgnored nnn => exact ⟨rfl, rfl, rfl, nnn, rfl⟩
  | retFatal | callFatal | drwAddress | drwFrame | ldBFatal | storeRegsFatal | loadRegsFatal => exact ⟨rfl, rfl, rfl, rfl⟩
  | _ => simp [hout]

/-! ### What the devices see -/

/-- An instruction that raises no fatal condition shows its frame if it draws, and nothing otherwise (R285). -/
theorem execCase_shownFrame (h : ExecCase s i t) (hout : s.out = none) (hrun : s.isHalted = false) (shown : Framebuffer) :
    shownFrame shown t = if i.drawsToDisplay = true ∧ t.isHalted = false then t.fb else shown := by
  cases h with
  | drw | cls => exact (if_pos ⟨rfl, hrun⟩).symm
  | retFatal | callFatal | drwAddress | drwFrame | ldBFatal | storeRegsFatal | loadRegsFatal =>
    exact (if_neg (by simp [State.isHalted, RunState.isHalted])).symm
  | callIgnored => simp [shownFrame, Instr.drawsToDisplay]
  | _ => simp [shownFrame, Instr.drawsToDisplay, hout]

/-- Settles O60: `execCase_shownFrame` for the instructions; a `Tick` writes the timers and empties the slot. -/
theorem displayAndSoundLagTheirState : Obligations.DisplayAndSoundLagTheirState := by
  refine ⟨fun i s t shown hout hrun h => execCase_shownFrame (exec_case h) hout hrun shown, fun s t shown h => ?_⟩
  cases h
  rw [s.tickBy_frame]
  refine ⟨?_, rfl⟩
  cases hs : s.soundOn <;> simp [audioCommand, hs]

end Sys2Proof.Machine
end

section
/-! Rules of every step: the configuration is constant (R10, R37) and the invariant is kept (R20, R26, R28, R302). An execute
phase keeps the part of the invariant that speaks of the hardware, element by element; the commands add the model's own fields. -/

namespace Sys2Proof.Machine

variable {s t : State}

/-! ### The context of a step -/

@[simp] theorem State.endStep_cfg (s : State) : s.endStep.cfg = s.cfg := by rw [s.endStep_frame]
@[simp] theorem State.endStep_loadable (s : State) : s.endStep.loadable = s.loadable := by rw [s.endStep_frame]

/-- The key wait writes registers and the run state alone (R214). -/
theorem State.keyWait_frame (s : State) (x : Reg) :
    s.keyWait x = { s with v := (s.keyWait x).v, run := (s.keyWait x).run } := by
  unfold State.keyWait; split <;> rfl

theorem fetchCase_sameContext (h : FetchCase s t) : SameContext s t := by
  cases h with
  | fault | unknown => exact ⟨rfl, rfl, rfl, rfl, rfl, rfl⟩
  | exec i u hc hd hx =>
    have hadv : SameContext s s.advancePc := ⟨rfl, rfl, rfl, rfl, rfl, rfl⟩
    exact hadv.trans (execCase_sameContext (exec_case hx))

theorem State.tickBy_cfg (s : State) (k : Nat) : (s.tickBy k).cfg = s.cfg := by rw [s.tickBy_frame]

theorem doStep_cfg {j : StepInput} (h : doStep j s = .next t) : t.cfg = s.cfg := by
  obtain ⟨-, rfl⟩ | ⟨x, -, rfl⟩ | ⟨-, u, hu, rfl⟩ := doStep_cases h
  · rfl
  · rw [State.endStep_cfg, State.keyWait_frame]; rfl
  · rw [State.endStep_cfg, (fetchCase_sameContext hu).cfg]; rfl

/-! ### The command `Load` -/

theorem doLoad_fits {rom : List Byte} (hl : s.loadable = true) (hr : romFits rom = true) :
    doLoad rom s = .next (({ s with out := none, loadable := false } : State).storeBytes progBase rom) := by
  simp [doLoad, hl, hr]

theorem doLoad_oversize {rom : List Byte} (hl : s.loadable = true) (hr : romFits rom = false) :
    doLoad rom s =
      .next (({ s with loadable := false } : State).halt .oversizedRom (BitVec.ofNat 16 progBase) none) := by
  simp [doLoad, hl, hr]

theorem doLoad_refused {rom : List Byte} (hl : s.loadable = false) : doLoad rom s = .refused .loadOutOfOrder := by
  simp [doLoad, hl]

/-- What a `Load` that answers a next state did (R302). -/
theorem doLoad_cases {rom : List Byte} (h : doLoad rom s = .next t) :
    s.loadable = true ∧
      ((romFits rom = true ∧ t = ({ s with out := none, loadable := false } : State).storeBytes progBase rom) ∨
        t = ({ s with loadable := false } : State).halt .oversizedRom (BitVec.ofNat 16 progBase) none) := by
  cases hl : s.loadable with
  | false => rw [doLoad_refused hl] at h; cases h
  | true =>
    cases hr : romFits rom with
    | true => rw [doLoad_fits hl hr] at h; cases h; exact ⟨rfl, .inl ⟨rfl, rfl⟩⟩
    | false => rw [doLoad_oversize hl hr] at h; cases h; exact ⟨rfl, .inr rfl⟩

/-! ### The configuration -/

theorem doCommand_cfg {c : Command} (h : doCommand c s = .next t) : t.cfg = s.cfg := by
  cases c with
  | reset => cases h; rfl
  | step j => exact doStep_cfg h
  | tick => cases h; exact s.tickBy_cfg 1
  | load rom =>
    obtain ⟨-, ⟨-, rfl⟩ | rfl⟩ := doLoad_cases h
    · rw [State.storeBytes_cfg]
    · rfl

/-- Settles O54: by the command a step runs. -/
theorem stepKeepsTheConfiguration : Obligations.StepKeepsTheConfiguration := by
  intro s t h
  obtain ⟨c, cs, -, hc⟩ | ⟨-, -, hstep⟩ := step_cases h
  · exact (doCommand_cfg hc).trans rfl
  · rw [doStep_cfg hstep, s.unscripted_frame]

/-! ### The invariant through an execute phase -/

/-- The part of the invariant that speaks of the machine's own elements. -/
structure State.HardwareInv (s : State) : Prop where
  memory : Memory.wf (resetByte s.cfg) s.mem
  stack : s.stackBounded
  returns : ∀ r ∈ s.stack, r.toNat ≤ 0x1000
  pc : s.pc.toNat ≤ 0x10FE

theorem State.Inv.hardware (h : s.Inv) : s.HardwareInv := ⟨h.memory, h.stack, h.returns, h.pc⟩

/-- The hardware part holds wherever its four elements are the same. -/
theorem State.HardwareInv.congr (h : s.HardwareInv) (hcfg : t.cfg = s.cfg) (hmem : t.mem = s.mem)
    (hstack : t.stack = s.stack) (hpc : t.pc = s.pc) : t.HardwareInv where
  memory := by rw [hcfg, hmem]; exact h.memory
  stack := by unfold State.stackBounded; rw [hcfg, hstack]; exact h.stack
  returns := by rw [hstack]; exact h.returns
  pc := by rw [hpc]; exact h.pc

/-- After a `Step` the hardware part is all there is to keep: the latch is idle and no `Load` may come. -/
theorem State.HardwareInv.inv (h : s.HardwareInv) (hin : s.input = .idle) (hl : s.loadable = false) : s.Inv :=
  ⟨h.memory, h.stack, h.returns, h.pc, hin, fun hl' => by simp [hl] at hl'⟩

section
variable {i : Instr}

theorem execCase_memory_wf (h : ExecCase s i t) (hs : Memory.wf (resetByte s.cfg) s.mem) :
    Memory.wf (resetByte t.cfg) t.mem := by
  cases h with
  | ldB x hr =>
    have hin : s.iAddr + 3 ≤ 4096 := by simpa using (inRange_iff ..).1 hr
    exact s.storeBytes_wf hs _ _ hin
  | storeRegs x hr =>
    have hin : s.iAddr + regCount x ≤ 4096 := by simpa [regCount] using (inRange_iff ..).1 hr
    exact s.storeBytes_wf hs _ _ (by rwa [s.regBlock_length])
  | loadRegs => simpa using hs
  | _ => exact hs

theorem State.stackBounded_iff (s : State) :
    s.stackBounded ↔ ∀ n, s.cfg.stackDepth = .bounded n → s.stack.length ≤ n := by
  unfold State.stackBounded
  split <;> simp [*]

/-- A call pushes only where the stack is not full (R143), and a return pops. -/
theorem execCase_stackBounded (h : ExecCase s i t) (hs : s.stackBounded) : t.stackBounded := by
  rw [State.stackBounded_iff] at hs ⊢
  cases h with
  | ret z rest target h =>
    intro n hn
    have hrest : rest.length ≤ s.stack.length := by simp [h]
    exact hrest.trans (hs n hn)
  | call nnn h =>
    intro n hn
    have hn : s.cfg.stackDepth = .bounded n := hn
    have hroom : s.stack.length ≠ n := by simpa [State.stackFull, hn] using h
    have hle : s.stack.length ≤ n := hs n hn
    rw [State.setPc_stack, State.push_stack, List.length_append, List.length_singleton]
    omega
  | ldB | storeRegs | loadRegs => simpa using hs
  | _ => exact hs

/-- The one address pushed is the advanced PC (R143). -/
theorem execCase_returns (h : ExecCase s i t) (hs : ∀ r ∈ s.stack, r.toNat ≤ 0x1000) (hpc : s.pc.toNat ≤ 0x1000) :
    ∀ r ∈ t.stack, r.toNat ≤ 0x1000 := by
  cases h with
  | ret z rest target h => exact fun r hr => hs r (by simp [h, show r ∈ rest from hr])
  | call nnn h =>
    intro r hr
    obtain hr | rfl : r ∈ s.stack ∨ r = s.pc := by simpa using hr
    · exact hs r hr
    · exact hpc
  | ldB | storeRegs | loadRegs => simpa using hs
  | _ => exact hs

theorem toNat_add_two {w : Word} (h : w.toNat ≤ 0x1000) : (w + 2).toNat = w.toNat + 2 := by
  rw [BitVec.toNat_add, show (2 : Word).toNat = 2 from rfl]
  omega

theorem State.skipIf_pc_le (hpc : s.pc.toNat ≤ 0x1000) (c : Bool) : (s.skipIf c).pc.toNat ≤ 0x10FE := by
  rw [State.skipIf_pc]
  split
  · rw [toNat_add_two hpc]; omega
  · omega

theorem byteToWord_toNat (b : Byte) : (byteToWord b).toNat = b.toNat :=
  BitVec.toNat_setWidth_of_le (by decide)

/-- The sum of R148 does not wrap: it is at most 0xFFF + 0xFF. -/
theorem toNat_jumpTarget (s : State) (nnn : Addr) :
    (s.jumpTarget nnn).toNat = nnn.toNat + (s.getV (s.jumpOffsetReg nnn)).toNat := by
  have haddr : nnn.toNat < 4096 := nnn.isLt
  have hbyte : (s.getV (s.jumpOffsetReg nnn)).toNat < 256 := (s.getV (s.jumpOffsetReg nnn)).isLt
  rw [State.jumpTarget, BitVec.toNat_add, toNat_zext16, byteToWord_toNat]
  omega

/-- No PC arithmetic wraps (R26): a jump reaches at most 0xFFF + 0xFF, a return or a skip less. -/
theorem execCase_pc_le (h : ExecCase s i t) (hs : ∀ r ∈ s.stack, r.toNat ≤ 0x1000) (h2 : 2 ≤ s.pc.toNat)
    (hpc : s.pc.toNat ≤ 0x1000) : t.pc.toNat ≤ 0x10FE := by
  have hstay : s.pc.toNat ≤ 0x10FE := by omega
  have hback : s.instrAddr.toNat ≤ 0x10FE := by
    rw [State.instrAddr, BitVec.toNat_sub_of_le (by simpa [BitVec.le_def] using h2)]; omega
  cases h with
  | ret z rest target h => exact (hs target (by simp [h])).trans (by decide)
  | jp nnn | call nnn =>
    rw [State.setPc_pc, toNat_zext16]
    have := nnn.isLt
    omega
  | jpV0 nnn =>
    rw [State.setPc_pc, toNat_jumpTarget]
    have := nnn.isLt
    have := (s.getV (s.jumpOffsetReg nnn)).isLt
    omega
  | seImm | sneImm | seReg | sneReg | skp | sknp => exact State.skipIf_pc_le hpc _
  | retFatal | callFatal | drwAddress | drwFrame | ldBFatal | storeRegsFatal | loadRegsFatal => exact hback
  | ldB | storeRegs | loadRegs => simpa using hstay
  | _ => exact hstay

theorem execCase_hardwareInv (h : ExecCase s i t) (hs : s.HardwareInv) (h2 : 2 ≤ s.pc.toNat)
    (hpc : s.pc.toNat ≤ 0x1000) : t.HardwareInv :=
  ⟨execCase_memory_wf h hs.memory, execCase_stackBounded h hs.stack, execCase_returns h hs.returns hpc,
    execCase_pc_le h hs.returns h2 hpc⟩

end

/-! ### The invariant through a command -/

theorem State.canFetch_iff (s : State) : s.canFetch = true ↔ s.pc.toNat + 1 ≤ 0xFFF := by
  rw [State.canFetch, lastAddr, decide_eq_true_eq]

theorem fetchCase_hardwareInv (h : FetchCase s t) (hs : s.HardwareInv) : t.HardwareInv := by
  have hadv (hc : s.canFetch = true) :
      s.advancePc.HardwareInv ∧ 2 ≤ s.advancePc.pc.toNat ∧ s.advancePc.pc.toNat ≤ 0x1000 := by
    have hle : s.pc.toNat + 1 ≤ 0xFFF := s.canFetch_iff.1 hc
    have hpc : s.advancePc.pc.toNat = s.pc.toNat + 2 := toNat_add_two (by omega)
    exact ⟨⟨hs.memory, hs.stack, hs.returns, by omega⟩, by omega, by omega⟩
  cases h with
  | fault => exact hs.congr rfl rfl rfl rfl
  | unknown e hc hd => exact (hadv hc).1.congr rfl rfl rfl rfl
  | exec i u hc hd hx =>
    obtain ⟨hs', h2, hpc⟩ := hadv hc
    exact execCase_hardwareInv (exec_case hx) hs' h2 hpc

theorem State.HardwareInv.endStep (h : s.HardwareInv) (hl : s.loadable = false) : s.endStep.Inv := by
  rw [s.endStep_frame]
  exact State.HardwareInv.inv (h.congr rfl rfl rfl rfl) rfl hl

/-- A halted state is not the reset state, so no `Load` may come in it. -/
theorem State.Inv.loadable_of_halted (h : s.Inv) (hh : s.isHalted = true) : s.loadable = false := by
  cases hl : s.loadable with
  | false => rfl
  | true => rw [h.fresh hl] at hh; cases hh

theorem doStep_inv {j : StepInput} (hs : s.Inv) (h : doStep j s = .next t) : t.Inv := by
  obtain ⟨hh, rfl⟩ | ⟨x, -, rfl⟩ | ⟨-, u, hu, rfl⟩ := doStep_cases h
  · exact State.HardwareInv.inv (hs.hardware.congr rfl rfl rfl rfl) hs.input (hs.loadable_of_halted hh)
  · rw [State.keyWait_frame]
    exact State.HardwareInv.endStep (hs.hardware.congr rfl rfl rfl rfl) rfl
  · have hb : (s.beginStep j).HardwareInv := hs.hardware.congr rfl rfl rfl rfl
    exact (fetchCase_hardwareInv hu hb).endStep (fetchCase_sameContext hu).loadable

/-- Ticks keep the invariant; the reset state they keep altogether, since both its timers are 0. -/
theorem State.Inv.tickBy (hs : s.Inv) (k : Nat) : (s.tickBy k).Inv := by
  have hfresh : s.loadable = true → s.tickBy k = s := fun hl => by
    rw [hs.fresh hl]; rfl
  have hhw : (s.tickBy k).HardwareInv := by rw [s.tickBy_frame]; exact hs.hardware.congr rfl rfl rfl rfl
  refine ⟨hhw.memory, hhw.stack, hhw.returns, hhw.pc, by rw [s.tickBy_frame]; exact hs.input, fun hl => ?_⟩
  have hl' : s.loadable = true := by rwa [s.tickBy_frame] at hl
  rw [hfresh hl']
  exact hs.fresh hl'

/-- The invariant says nothing of the waiting commands and the count of draws. -/
theorem State.Inv.withOwn (hs : s.Inv) (p : List Command) (n : Nat) : ({ s with pending := p, draws := n } : State).Inv :=
  ⟨hs.memory, hs.stack, hs.returns, hs.pc, hs.input,
    fun hl => congrArg (fun u : State => { u with pending := p, draws := n }) (hs.fresh hl)⟩

theorem State.Inv.quiet (hs : s.Inv) : ({ s with out := none } : State).Inv :=
  ⟨hs.memory, hs.stack, hs.returns, hs.pc, hs.input,
    fun hl => congrArg (fun u : State => { u with out := none }) (hs.fresh hl)⟩

theorem State.resetOf_inv (cfg : Config) : (State.resetOf cfg).Inv where
  memory := State.resetOf_mem_wf cfg
  stack := by unfold State.stackBounded; split <;> simp [State.resetOf]
  returns := nofun
  pc := show 0x200 ≤ 0x10FE by decide
  input := rfl
  fresh := fun _ => rfl

/-- A ROM that fits ends inside memory (R59). -/
theorem romFits_iff (rom : List Byte) : romFits rom = true ↔ rom.length ≤ 3584 := by simp [romFits]

theorem doLoad_inv {rom : List Byte} (hs : s.Inv) (h : doLoad rom s = .next t) : t.Inv := by
  obtain ⟨-, ⟨hfit, rfl⟩ | rfl⟩ := doLoad_cases h
  · have hmem := State.storeBytes_wf (s := { s with out := none, loadable := false }) hs.memory progBase rom
      (by have := (romFits_iff rom).1 hfit; simp only [progBase, lastAddr]; omega)
    rw [State.storeBytes_frame] at hmem ⊢
    exact State.HardwareInv.inv ⟨hmem, hs.stack, hs.returns, hs.pc⟩ hs.input rfl
  · exact State.HardwareInv.inv (hs.hardware.congr rfl rfl rfl rfl) hs.input rfl

theorem doCommand_inv {c : Command} (hs : s.Inv) (h : doCommand c s = .next t) : t.Inv := by
  cases c with
  | reset => cases h; exact (State.resetOf_inv s.cfg).withOwn s.pending s.draws
  | load rom => exact doLoad_inv hs h
  | step j => exact doStep_inv hs h
  | tick => cases h; exact (hs.tickBy 1).quiet

/-- Settles O53: every command keeps the invariant, and so do the free ticks before an unscripted `Step`. -/
theorem stepKeepsTheInvariant : Obligations.StepKeepsTheInvariant := by
  intro s t hs h
  obtain ⟨c, cs, -, hc⟩ | ⟨-, -, hstep⟩ := step_cases h
  · exact doCommand_inv (hs.withOwn cs s.draws) hc
  · exact doStep_inv ((hs.tickBy _).withOwn _ (s.draws + 1)) hstep

/-- Settles O52: `State.resetOf_inv`, at the default configuration and at every other. -/
theorem invariantHoldsAtReset : Obligations.InvariantHoldsAtReset :=
  ⟨State.resetOf_inv defaultConfig, State.resetOf_inv⟩

end Sys2Proof.Machine
end

section
/-! The sprite compositor of spec file 42_display.md (R170 to R178). A blit that completes is its list of plots
(Laws/Compositor); what remains is which plots the list holds: one for each sprite pixel that has a target, and no target
twice. Then the picture of `spritePixel` is read off the list. -/

namespace Sys2Proof.Machine

/-! ### Targets -/

/-- Sprite pixels inside one frame's width and height have different targets (R173 to R175). -/
theorem spriteTarget_inj {edge : SpriteEdge} {x0 y0 k k' r r' px py : Nat} (hk : k < 8) (hk' : k' < 8) (hr : r < 32)
    (hr' : r' < 32) (h : spriteTarget edge (x0 + k) (y0 + r) = .pixel px py)
    (h' : spriteTarget edge (x0 + k') (y0 + r') = .pixel px py) : k = k' ∧ r = r' := by
  cases edge <;> simp only [spriteTarget] at h h'
  case wrap =>
    simp only [Target.pixel.injEq] at h h'
    omega
  case clip =>
    split at h <;> split at h' <;> simp only [Target.pixel.injEq, reduceCtorEq] at h h'
    omega
  case reference =>
    split_ifs at h h'
    simp only [Target.pixel.injEq] at h h'
    omega

/-- A target to the right shows that the row has not ended before it. -/
theorem spriteTarget_of_left {edge : SpriteEdge} {x x' y px py : Nat} (hx : x ≤ x')
    (h : spriteTarget edge x' y = .pixel px py) :
    spriteTarget edge x y ≠ .endRow ∧ spriteTarget edge x y ≠ .fatal := by
  cases edge <;> simp only [spriteTarget] at h ⊢
  case wrap => simp
  case clip => split <;> simp
  case reference =>
    split_ifs at h ⊢
    · omega
    · simp

/-- Where the sprite does not wrap, a target inside the frame is the pixel itself (R174, R175). -/
theorem spriteTarget_unwrapped_iff {edge : SpriteEdge} {x y px py : Nat} (hedge : edge ≠ .wrap) (hpx : px < 64)
    (hpy : py < 32) : spriteTarget edge x y = .pixel px py ↔ x = px ∧ y = py := by
  cases edge <;> simp only [spriteTarget]
  case wrap => exact absurd rfl hedge
  case clip | reference => split_ifs <;> simp <;> omega

/-! ### The plots of a row and of a sprite -/

/-- The plots of a row are the offsets that have a target, with their sprite bits. -/
theorem mem_rowPlots {edge : SpriteEdge} {b : Byte} {x0 y : Nat} {ks : List Nat} (hks : ks.Pairwise (· < ·)) {q : Plot} :
    q ∈ rowPlots edge b x0 y ks ↔
      ∃ k ∈ ks, spriteTarget edge (x0 + k) y = .pixel q.1 q.2.1 ∧ q.2.2 = spriteBit b k := by
  induction ks with
  | nil => simp [rowPlots]
  | cons k ks ih =>
    obtain ⟨hk, hks⟩ := List.pairwise_cons.1 hks
    have hend (hstop : spriteTarget edge (x0 + k) y = .endRow ∨ spriteTarget edge (x0 + k) y = .fatal) :
        ∀ k' ∈ k :: ks, spriteTarget edge (x0 + k') y ≠ .pixel q.1 q.2.1 := by
      intro k' hk' htarget
      have hle : k ≤ k' := by
        obtain rfl | hmem := List.mem_cons.1 hk'
        · exact le_rfl
        · exact (hk k' hmem).le
      obtain ⟨hrow, hfatal⟩ := spriteTarget_of_left (Nat.add_le_add_left hle x0) htarget
      exact hstop.elim hrow hfatal
    cases ht : spriteTarget edge (x0 + k) y with
    | pixel px py => simp [rowPlots, ht, ih hks, Prod.ext_iff, eq_comm, and_assoc]
    | skip => simp [rowPlots, ht, ih hks]
    | endRow | fatal =>
      simp only [rowPlots, ht]
      exact ⟨nofun, fun ⟨k', hk', htarget, _⟩ => absurd htarget (hend (by simp [ht]) k' hk')⟩

/-- The plots of a sprite are the sprite pixels that have a target, with their sprite bits. -/
theorem mem_spritePlots {edge : SpriteEdge} {x0 y : Nat} {spr : List Byte} {q : Plot} :
    q ∈ spritePlots edge x0 y spr ↔
      ∃ r < spr.length, ∃ k < 8, spriteTarget edge (x0 + k) (y + r) = .pixel q.1 q.2.1 ∧
        q.2.2 = spriteBit (spr.getD r 0) k := by
  induction spr generalizing y with
  | nil => simp [spritePlots]
  | cons b bs ih =>
    rw [spritePlots, List.mem_append, mem_rowPlots List.pairwise_lt_range, ih]
    simp only [List.length_cons, List.mem_range]
    rw [Nat.exists_lt_succ_left (n := bs.length)]
    simp [Nat.add_assoc, Nat.add_comm 1]

/-- No plot of a row has another's target. -/
theorem rowPlots_nodup {edge : SpriteEdge} {b : Byte} {x0 y : Nat} {ks : List Nat} (hks : ks.Pairwise (· < ·))
    (h8 : ∀ k ∈ ks, k < 8) : ((rowPlots edge b x0 y ks).map fun q => (q.1, q.2.1)).Nodup := by
  induction ks with
  | nil => simp [rowPlots]
  | cons k ks ih =>
    obtain ⟨hk, hks⟩ := List.pairwise_cons.1 hks
    have htail := ih hks fun k' hk' => h8 k' (.tail _ hk')
    cases ht : spriteTarget edge (x0 + k) y with
    | pixel px py =>
      simp only [rowPlots, ht, List.map_cons, List.nodup_cons]
      refine ⟨fun hmem => ?_, htail⟩
      obtain ⟨q, hq, heq⟩ := List.mem_map.1 hmem
      obtain ⟨k', hk', ht', -⟩ := (mem_rowPlots hks).1 hq
      simp only [Prod.mk.injEq] at heq
      rw [heq.1, heq.2] at ht'
      have hne := (hk k' hk').ne
      exact hne (spriteTarget_inj (y0 := y) (r := 0) (r' := 0) (h8 k (.head _)) (h8 k' (.tail _ hk')) (by decide)
        (by decide) ht ht').1
    | skip => simpa [rowPlots, ht] using htail
    | endRow | fatal => simp [rowPlots, ht]

/-- No plot of a sprite has another's target. -/
theorem spritePlots_nodup {edge : SpriteEdge} {x0 y : Nat} {spr : List Byte} (hlen : spr.length ≤ 32) :
    ((spritePlots edge x0 y spr).map fun q => (q.1, q.2.1)).Nodup := by
  induction spr generalizing y with
  | nil => simp [spritePlots]
  | cons b bs ih =>
    simp only [List.length_cons] at hlen
    rw [spritePlots, List.map_append, List.nodup_append]
    refine ⟨rowPlots_nodup List.pairwise_lt_range (by simp), ih (by omega), ?_⟩
    intro p hp p' hp' heq
    obtain ⟨q, hq, rfl⟩ := List.mem_map.1 hp
    obtain ⟨q', hq', rfl⟩ := List.mem_map.1 hp'
    obtain ⟨k, hk, ht, -⟩ := (mem_rowPlots List.pairwise_lt_range).1 hq
    obtain ⟨r, hr, k', hk', ht', -⟩ := mem_spritePlots.1 hq'
    simp only [Prod.mk.injEq] at heq
    rw [← heq.1, ← heq.2, Nat.add_assoc] at ht'
    have := (spriteTarget_inj (y0 := y) (r := 0) (List.mem_range.1 hk) hk' (by decide) (by omega) ht ht').2
    omega

/-! ### The picture -/

/-- A set sprite bit lies in the sprite: in one of its rows and one of its eight columns. -/
theorem lt_of_spriteBit {spr : List Byte} {r k : Nat} (h : spriteBit (spr.getD r 0) k = true) :
    r < spr.length ∧ k < 8 := by
  constructor
  · by_contra hr
    rw [List.getD_eq_default _ _ (by omega), spriteBit_zero] at h
    cases h
  · by_contra hk
    rw [spriteBit_of_ge _ (by omega)] at h
    cases h

/-- The offsets of the sprite pixel that `spritePixel` looks at, under a policy that does not wrap. -/
theorem spritePixel_unwrapped_iff {spr : List Byte} {x0 y0 px py : Nat} :
    (decide (x0 ≤ px ∧ y0 ≤ py) && spriteBit (spr.getD (py - y0) 0) (px - x0)) = true ↔
      ∃ r < spr.length, ∃ k < 8, (x0 + k = px ∧ y0 + r = py) ∧ spriteBit (spr.getD r 0) k = true := by
  simp only [Bool.and_eq_true, decide_eq_true_eq]
  constructor
  · rintro ⟨hle, hbit⟩
    obtain ⟨hr, hk⟩ := lt_of_spriteBit hbit
    exact ⟨_, hr, _, hk, by omega, hbit⟩
  · rintro ⟨r, -, k, -, ⟨rfl, rfl⟩, hbit⟩
    exact ⟨by omega, by simpa using hbit⟩

/-- The sprite bit that lands on a pixel is set exactly when a sprite pixel with a set bit has it as its target. -/
theorem spritePixel_iff {edge : SpriteEdge} {spr : List Byte} {x0 y0 px py : Nat} (hx0 : x0 < 64) (hy0 : y0 < 32)
    (hlen : spr.length ≤ 32) (hpx : px < 64) (hpy : py < 32) :
    spritePixel edge spr x0 y0 px py = true ↔
      ∃ r < spr.length, ∃ k < 8, spriteTarget edge (x0 + k) (y0 + r) = .pixel px py ∧
        spriteBit (spr.getD r 0) k = true := by
  cases edge with
  | wrap =>
    simp only [spritePixel, spriteTarget, Target.pixel.injEq]
    constructor
    · intro hbit
      obtain ⟨hr, hk⟩ := lt_of_spriteBit hbit
      exact ⟨_, hr, _, hk, by omega, hbit⟩
    · rintro ⟨r, hr, k, hk, htarget, hbit⟩
      have hcol : (px + 64 - x0) % 64 = k := by omega
      have hrow : (py + 32 - y0) % 32 = r := by omega
      rwa [hcol, hrow]
  | clip =>
    simp only [spritePixel, spritePixel_unwrapped_iff, spriteTarget_unwrapped_iff (edge := .clip) nofun hpx hpy]
  | reference =>
    simp only [spritePixel, spritePixel_unwrapped_iff, spriteTarget_unwrapped_iff (edge := .reference) nofun hpx hpy]

/-- The plots of a sprite, with the picture: a pixel is plotted with a set bit exactly where the picture has one. -/
theorem spritePlots_any (edge : SpriteEdge) {spr : List Byte} {x0 y0 px py : Nat} (hx0 : x0 < 64) (hy0 : y0 < 32)
    (hlen : spr.length ≤ 32) (hpx : px < 64) (hpy : py < 32) :
    ((spritePlots edge x0 y0 spr).any fun q => decide (q.1 = px ∧ q.2.1 = py) && q.2.2) =
      spritePixel edge spr x0 y0 px py := by
  rw [Bool.eq_iff_iff, List.any_eq_true, spritePixel_iff hx0 hy0 hlen hpx hpy]
  constructor
  · rintro ⟨q, hq, hbit⟩
    obtain ⟨r, hr, k, hk, htarget, hq2⟩ := mem_spritePlots.1 hq
    obtain ⟨⟨rfl, rfl⟩, hset⟩ : (q.1 = px ∧ q.2.1 = py) ∧ q.2.2 = true := by simpa using hbit
    exact ⟨r, hr, k, hk, htarget, hq2 ▸ hset⟩
  · rintro ⟨r, hr, k, hk, htarget, hbit⟩
    exact ⟨(px, py, true), mem_spritePlots.2 ⟨r, hr, k, hk, htarget, hbit.symm⟩, by simp⟩

/-- The targets of a blit lie inside the frame (R173 to R175). -/
theorem spritePlots_inside {edge : SpriteEdge} {spr : List Byte} {x0 y0 : Nat} :
    ∀ q ∈ spritePlots edge x0 y0 spr, q.1 < 64 ∧ q.2.1 < 32 := by
  intro q hq
  obtain ⟨r, -, k, -, ht, -⟩ := mem_spritePlots.1 hq
  exact spriteTarget_pixel ht

/-- Some plot meets a set pixel with a set bit exactly where the picture does. -/
theorem spritePlots_any_collides (edge : SpriteEdge) (fb : Framebuffer) {spr : List Byte} {x0 y0 : Nat} (hx0 : x0 < 64)
    (hy0 : y0 < 32) (hlen : spr.length ≤ 32) :
    ((spritePlots edge x0 y0 spr).any fun q => getPixel fb q.1 q.2.1 && q.2.2) = true ↔
      Collides edge fb spr x0 y0 := by
  rw [List.any_eq_true]
  constructor
  · rintro ⟨q, hq, hmeet⟩
    obtain ⟨hpixel, hbit⟩ : getPixel fb q.1 q.2.1 = true ∧ q.2.2 = true := by simpa using hmeet
    obtain ⟨hpx, hpy⟩ := spritePlots_inside q hq
    refine ⟨q.1, q.2.1, hpx, hpy, hpixel, ?_⟩
    rw [← spritePlots_any edge hx0 hy0 hlen hpx hpy, List.any_eq_true]
    exact ⟨q, hq, by simpa using hbit⟩
  · rintro ⟨px, py, hpx, hpy, hpixel, hbit⟩
    rw [← spritePlots_any edge hx0 hy0 hlen hpx hpy, List.any_eq_true] at hbit
    obtain ⟨q, hq, hland⟩ := hbit
    obtain ⟨⟨rfl, rfl⟩, hset⟩ : (q.1 = px ∧ q.2.1 = py) ∧ q.2.2 = true := by simpa using hland
    exact ⟨q, hq, by simp [hpixel, hset]⟩

/-! ### Blits -/

theorem blit_eq_none_iff (edge : SpriteEdge) (fb : Framebuffer) (spr : List Byte) (x0 y0 : Nat) :
    blit edge fb spr x0 y0 = none ↔ edge = .reference ∧ spr ≠ [] ∧ y0 + spr.length > 32 := by
  rw [blit, blitRows_eq]
  split_ifs with h <;> simpa using h

theorem eq_foldl_of_blit {edge : SpriteEdge} {fb : Framebuffer} {spr : List Byte} {x0 y0 : Nat} {c : Canvas}
    (h : blit edge fb spr x0 y0 = some c) : c = (spritePlots edge x0 y0 spr).foldl Canvas.plotOne ⟨fb, false⟩ := by
  rw [blit, blitRows_eq] at h
  split_ifs at h
  exact (Option.some.inj h).symm

/-- Settles O18: the plots reach no pixel twice, so the fold of `plot` over them is the picture. -/
theorem blitXorsThePicture : Obligations.BlitXorsThePicture := by
  intro edge fb spr x0 y0 c hx0 hy0 hlen h
  have hlen : spr.length ≤ 32 := by omega
  obtain rfl := eq_foldl_of_blit h
  constructor
  · intro px py hpx hpy
    rw [getPixel_foldl_plot spritePlots_inside (spritePlots_nodup hlen), spritePlots_any edge hx0 hy0 hlen hpx hpy]
  · rw [foldl_plot_collision spritePlots_inside (spritePlots_nodup hlen), Bool.false_or,
      spritePlots_any_collides edge fb hx0 hy0 hlen]

/-- Settles O19: `blitRows_eq`, read on the fatal side. -/
theorem blitFailsOnlyPastLastRow : Obligations.BlitFailsOnlyPastLastRow := fun edge fb spr x0 y0 _ _ _ =>
  blit_eq_none_iff edge fb spr x0 y0

/-! ### The draw -/

@[simp] theorem State.sprite_length (s : State) (n : Nibble) : (s.sprite n).length = n.toNat := by
  simp [State.sprite, State.readBytes]

/-- What a draw that completes leaves (R178): the picture, the collision in VF, the frame presented. `spr` is the sprite and
`(x0, y0)` its start. -/
structure DrawnFrom (s t : State) (spr : List Byte) (x0 y0 : Nat) : Prop where
  pixels : ∀ px py, px < 64 → py < 32 →
    getPixel t.fb px py = (getPixel s.fb px py ^^ spritePixel s.cfg.spriteEdge spr x0 y0 px py)
  collision : Collides s.cfg.spriteEdge s.fb spr x0 y0 → t.getV 15 = 1
  noCollision : ¬ Collides s.cfg.spriteEdge s.fb spr x0 y0 → t.getV 15 = 0
  out : t.out = some (.present t.fb)
  frame : t = { s with fb := t.fb, v := t.v, out := t.out }
  regs : SameRegsBut s t [15]

/-- A draw inside memory, and inside the frame under `Reference`, completes (R178, R265). -/
theorem exec_drw_completes {x y : Reg} {n : Nibble} {s : State} (hmem : n.toNat = 0 ∨ s.i.toNat + n.toNat ≤ 4096)
    (hrow : s.cfg.spriteEdge = .reference → s.startRow y + n.toNat ≤ 32) :
    ∃ t, exec (.drw x y n) s = .next t ∧ DrawnFrom s t (s.sprite n) (s.startColumn x) (s.startRow y) := by
  have hr : inRange s.iAddr n.toNat = true := (inRange_iff ..).2 hmem
  have hx0 : s.startColumn x < 64 := Nat.mod_lt _ (by decide)
  have hy0 : s.startRow y < 32 := Nat.mod_lt _ (by decide)
  obtain ⟨c, hb⟩ : ∃ c, blit s.cfg.spriteEdge s.fb (s.sprite n) (s.startColumn x) (s.startRow y) = some c := by
    rw [← Option.ne_none_iff_exists', Ne, blit_eq_none_iff, s.sprite_length]
    rintro ⟨hedge, -, hpast⟩
    have := hrow hedge
    omega
  have hn : n.toNat < 16 := n.isLt
  obtain ⟨hpixels, hcoll⟩ := blitXorsThePicture _ _ _ _ _ c hx0 hy0 (by rw [s.sprite_length]; omega) hb
  have hvf : (s.drawn c).getV 15 = flagByte c.collision := State.getV_setFlag (s.setFb c.fb) c.collision 15
  refine ⟨_, exec_of_case (.drw x y n c hr hb), hpixels, fun h => ?_, fun h => ?_, rfl, rfl, ?_⟩
  · rw [hvf, hcoll.2 h, flagByte_true]
  · rw [hvf, Bool.eq_false_iff.2 (mt hcoll.1 h), flagByte_false]
  · exact (onlyRegs_setV (s.setFb c.fb) 15 _).2.1

/-- Settles O20: `exec_drw_completes`; memory is not written. -/
theorem drawXorsSpriteAndSetsCollision : Obligations.DrawXorsSpriteAndSetsCollision := by
  rintro x y n s spr x0 y0 hmem rfl rfl rfl hrow
  obtain ⟨t, ht, hd⟩ := exec_drw_completes (x := x) hmem hrow
  exact ⟨t, ht, hd.pixels, hd.collision, hd.noCollision, hd.out, hd.frame, hd.regs, fun a => by rw [hd.frame]; rfl⟩

section
variable {s t : State} {spr : List Byte} {x0 y0 : Nat}

/-- A draw leaves everything from which it was made, if neither coordinate register is VF. -/
theorem DrawnFrom.same_operands (h : DrawnFrom s t spr x0 y0) {x y : Reg} (hx : x ≠ 15) (hy : y ≠ 15) (n : Nibble) :
    t.cfg = s.cfg ∧ t.i = s.i ∧ t.sprite n = s.sprite n ∧ t.startColumn x = s.startColumn x ∧
      t.startRow y = s.startRow y := by
  have hvx : t.getV x = s.getV x := h.regs x (by simpa using hx)
  have hvy : t.getV y = s.getV y := h.regs y (by simpa using hy)
  refine ⟨by rw [h.frame], by rw [h.frame], by rw [h.frame]; rfl, ?_, ?_⟩
  · rw [State.startColumn, hvx, State.startColumn]
  · rw [State.startRow, hvy, State.startRow]

theorem DrawnFrom.vf_eq_one_iff (h : DrawnFrom s t spr x0 y0) :
    t.getV 15 = 1 ↔ Collides s.cfg.spriteEdge s.fb spr x0 y0 := by
  refine ⟨fun hvf => ?_, h.collision⟩
  by_contra hno
  rw [h.noCollision hno] at hvf
  exact absurd hvf (by decide)

/-- After a draw a set sprite bit meets a set pixel where it met an unset one before. -/
theorem DrawnFrom.collides_iff (h : DrawnFrom s t spr x0 y0) :
    Collides s.cfg.spriteEdge t.fb spr x0 y0 ↔ ∃ px py, px < 64 ∧ py < 32 ∧ getPixel s.fb px py = false ∧
      spritePixel s.cfg.spriteEdge spr x0 y0 px py = true := by
  refine exists_congr fun px => exists_congr fun py => and_congr_right fun hpx => and_congr_right fun hpy =>
    and_congr_left fun hbit => ?_
  rw [h.pixels px py hpx hpy, hbit, Bool.xor_true, Bool.not_eq_true']

/-- The same sprite drawn at the same place again takes the first draw back. -/
theorem DrawnFrom.fb_restored {u : State} (h : DrawnFrom s t spr x0 y0) (hcfg : t.cfg = s.cfg)
    (h' : DrawnFrom t u spr x0 y0) : u.fb = s.fb := by
  refine framebuffer_ext fun px py hpx hpy => ?_
  rw [h'.pixels px py hpx hpy, h.pixels px py hpx hpy, hcfg, Bool.xor_assoc, Bool.xor_self, Bool.xor_false]

end

/-- Settles O22: the second draw is the first one's, on the frame the first one left. -/
theorem drawTwiceRestoresTheFrame : Obligations.DrawTwiceRestoresTheFrame := by
  rintro x y n s spr x0 y0 hx hy hmem rfl rfl rfl hrow
  obtain ⟨t, ht, hd⟩ := exec_drw_completes (x := x) hmem hrow
  obtain ⟨hcfg, hi, hspr, hcol, hline⟩ := hd.same_operands hx hy n
  obtain ⟨u, hu, hd'⟩ := exec_drw_completes (x := x) (y := y) (n := n) (s := t) (by rwa [hi]) (by rwa [hcfg, hline])
  rw [hspr, hcol, hline] at hd'
  refine ⟨t, u, ht, hu, hd.fb_restored hcfg hd', ?_⟩
  rw [hd'.vf_eq_one_iff, hcfg]
  exact hd.collides_iff

/-- Settles O21: memory is checked before the blit, whose only failure is `blit_eq_none_iff`. -/
theorem drawFaultsOutsideMemoryOrFrame : Obligations.DrawFaultsOutsideMemoryOrFrame := by
  intro x y n s hn
  have hr : inRange s.iAddr n.toNat = true ↔ s.i.toNat + n.toNat ≤ 4096 := by
    rw [inRange_iff, State.iAddr]
    omega
  refine ⟨fun hout => ?_, fun hin hedge hpast => ?_⟩
  · have hr' : inRange s.iAddr n.toNat = false := Bool.eq_false_iff.2 (mt hr.1 (by omega))
    exact ⟨_, exec_of_case (.drwAddress x y n hr'), fatalEntry_raiseFatal ..⟩
  · have hb : blit s.cfg.spriteEdge s.fb (s.sprite n) (s.startColumn x) (s.startRow y) = none := by
      rw [blit_eq_none_iff, s.sprite_length]
      exact ⟨hedge, List.ne_nil_of_length_pos (by rw [s.sprite_length]; omega), hpast⟩
    exact ⟨_, exec_of_case (.drwFrame x y n (hr.2 hin) hb), fatalEntry_raiseFatal ..⟩

/-- Settles O23: the list of rows is the framebuffer's own, and a pixel is its row's bit. -/
theorem presentWordsHoldThePixels : Obligations.PresentWordsHoldThePixels := by
  intro fb
  refine ⟨by simp [presentWords], fun x y hx hy => ?_⟩
  simp [presentWords, getPixel, hx, hy]

end Sys2Proof.Machine
end

section
/-! The other arithmetic, control, timer, key and index instructions (spec files 40_alu.md, 41_control_flow.md, 43_timers.md,
44_input.md, 45_memory_transfer.md section 1). Each answer is read off `exec_of_case`; the register laws and the frames of
Laws/Frames give the rest. -/

namespace Sys2Proof.Machine

/-! ### Arithmetic and logic -/

/-- Settles O2: `setV` of a sum modulo 256. -/
theorem addImmediateWrapsWithoutFlag : Obligations.AddImmediateWrapsWithoutFlag := fun x nn s =>
  ⟨_, exec_of_case (.addImm x nn), by rw [s.getV_setV_same, BitVec.toNat_add], onlyRegs_setV s x _⟩

/-- Settles O4: each answer is `setV` of a word operation, which works bit by bit. -/
theorem logicOpsCombineBitByBit : Obligations.LogicOpsCombineBitByBit := by
  intro x y s
  refine ⟨⟨_, exec_of_case (.orReg x y), onlyRegs_setV s x _, fun k _ => ?_⟩,
    ⟨_, exec_of_case (.andReg x y), onlyRegs_setV s x _, fun k _ => ?_⟩,
    ⟨_, exec_of_case (.xorReg x y), onlyRegs_setV s x _, fun k _ => ?_⟩⟩
  · rw [s.getV_setV_same, BitVec.getLsbD_or]
  · rw [s.getV_setV_same, BitVec.getLsbD_and]
  · rw [s.getV_setV_same, BitVec.getLsbD_xor]

theorem flagByte_toNat (f : Bool) : (flagByte f).toNat = f.toNat := by cases f <;> rfl

/-- The bit 8XY6 shifts out, as the remainder of the halving (R109). -/
theorem shiftedOutRight_toNat (b : Byte) : (shiftedOutRight b).toNat = b.toNat % 2 := by
  rw [shiftedOutRight, BitVec.getLsbD, Nat.toNat_testBit, pow_zero, Nat.div_one]

/-- The bit 8XYE shifts out, as the carry of the doubling (R111). -/
theorem shiftedOutLeft_toNat (b : Byte) : (shiftedOutLeft b).toNat = b.toNat / 128 := by
  have hb : b.toNat < 256 := b.isLt
  rw [shiftedOutLeft, BitVec.getLsbD, Nat.toNat_testBit]
  omega

/-- Settles O7: both shifts are `setResultAndFlag` on the operand `SHIFT_SOURCE` selects. -/
theorem shiftsMoveOneBitIntoVf : Obligations.ShiftsMoveOneBitIntoVf := by
  intro x y s b hvx hvy
  obtain rfl : b = s.shiftOperand x y := by
    unfold State.shiftOperand
    split
    · exact hvx ‹_›
    · exact hvy ‹_›
  refine ⟨⟨_, exec_of_case (.shr x y), ?_, fun hx => ?_, onlyRegs_setResultAndFlag ..⟩,
    ⟨_, exec_of_case (.shl x y), ?_, fun hx => ?_, onlyRegs_setResultAndFlag ..⟩⟩
  · rw [s.getV_vf_setResultAndFlag, flagByte_toNat, shiftedOutRight_toNat]
  · rw [s.getV_result_setResultAndFlag hx, BitVec.toNat_ushiftRight, Nat.shiftRight_eq_div_pow, pow_one]
  · rw [s.getV_vf_setResultAndFlag, flagByte_toNat, shiftedOutLeft_toNat]
  · rw [s.getV_result_setResultAndFlag hx, BitVec.toNat_shiftLeft, Nat.shiftLeft_eq, pow_one]

/-- Settles O8: `setV` of the random byte and the immediate, which are combined bit by bit. -/
theorem randomByteIsMasked : Obligations.RandomByteIsMasked := fun x nn s =>
  ⟨_, exec_of_case (.rnd x nn), onlyRegs_setV s x _, fun k _ => by rw [s.getV_setV_same, BitVec.getLsbD_and]⟩

/-! ### Control flow -/

/-- Settles O9: the two cases of a return, by the stack. -/
theorem returnPopsOrUnderflows : Obligations.ReturnPopsOrUnderflows := fun z _ =>
  ⟨fun rest target h => exec_of_case (.ret z rest target h),
    fun h => ⟨_, exec_of_case (.retFatal z h), fatalEntry_raiseFatal ..⟩⟩

theorem State.stackFull_eq_false {s : State} (h : ∀ n, s.cfg.stackDepth = .bounded n → s.stack.length ≠ n) :
    s.stackFull = false := by
  unfold State.stackFull
  split
  · rfl
  · rename_i n hn
    exact beq_eq_false_iff_ne.2 (h n hn)

theorem State.stackFull_eq_true {s : State} {n : Nat} (h : s.cfg.stackDepth = .bounded n) (hn : s.stack.length = n) :
    s.stackFull = true := by
  simp [State.stackFull, h, hn]

/-- Settles O11: the case of a call with room. -/
theorem callPushesReturnAddress : Obligations.CallPushesReturnAddress := fun nnn s h =>
  ⟨_, exec_of_case (.call nnn (s.stackFull_eq_false h)), toNat_zext16 nnn, rfl, rfl, fun _ _ => rfl, fun _ => rfl⟩

/-- Settles O12: the two cases of a call on a full stack, by the policy. -/
theorem callOnFullStackFollowsPolicy : Obligations.CallOnFullStackFollowsPolicy := fun nnn s n h hn => by
  have hfull := State.stackFull_eq_true h hn
  exact ⟨fun hp => ⟨_, exec_of_case (.callFatal nnn hfull hp), fatalEntry_raiseFatal ..⟩,
    fun hp => exec_of_case (.callIgnored nnn hfull hp)⟩

/-- Settles O13: the return pops what the call pushed, the advanced PC. -/
theorem callThenReturnComesBack : Obligations.CallThenReturnComesBack := fun nnn z s h =>
  ⟨_, exec_of_case (.call nnn (s.stackFull_eq_false h)), fun _ hu =>
    ⟨_, exec_of_case (.ret z s.stack s.pc hu), rfl, rfl⟩⟩

/-- Settles O15: both skips are `State.skipIf_spec`, for every N. -/
theorem registerSkipsIgnoreLowNibble : Obligations.RegisterSkipsIgnoreLowNibble := fun x y n s =>
  ⟨⟨_, exec_of_case (.seReg x y n), s.skipIf_spec beq_iff_eq⟩,
    ⟨_, exec_of_case (.sneReg x y n), s.skipIf_spec bne_iff_ne⟩⟩

theorem topNibbleReg_val (nnn : Addr) : (topNibbleReg nnn).val = nnn.toNat / 256 % 16 := by
  simp [topNibbleReg, Nat.shiftRight_eq_div_pow]

/-- The register BNNN adds, by `JUMP_OFFSET_REG` (R148). -/
theorem State.jumpOffsetReg_eq {s : State} {nnn : Addr} {r : Reg} (h0 : s.cfg.jumpOffsetReg = .offsetV0 → r = 0)
    (hx : s.cfg.jumpOffsetReg = .offsetVX → r.val = nnn.toNat / 256) : s.jumpOffsetReg nnn = r := by
  unfold State.jumpOffsetReg
  split
  · exact (h0 ‹_›).symm
  · have hlt : nnn.toNat < 4096 := nnn.isLt
    apply Fin.ext
    rw [hx ‹_›, topNibbleReg_val]
    omega

/-- Settles O16: `setPc` of the sum, which `toNat_jumpTarget` shows not to wrap. -/
theorem offsetJumpAddsUnmasked : Obligations.OffsetJumpAddsUnmasked := fun nnn s r h0 hx =>
  ⟨_, exec_of_case (.jpV0 nnn), by rw [State.setPc_pc, toNat_jumpTarget, State.jumpOffsetReg_eq h0 hx], onlyPc_setPc s _⟩

/-! ### Timers -/

/-- Settles O24: one `setV`, `setDt` and `setSt` each. -/
theorem timerAccessesCopyOneByte : Obligations.TimerAccessesCopyOneByte := fun x s =>
  ⟨⟨_, exec_of_case (.ldVxDt x), s.getV_setV_same x _, onlyRegs_setV s x _⟩,
    ⟨_, exec_of_case (.ldDtVx x), rfl, rfl, fun _ _ => rfl, fun _ => rfl⟩,
    ⟨_, exec_of_case (.ldStVx x), rfl, rfl, fun _ _ => rfl, fun _ => rfl⟩⟩

/-! ### Keys -/

/-- Settles O28: `keyIsDown` is the given level, and the second skip is on its opposite. -/
theorem keySkipsReadTheKeyLevels : Obligations.KeySkipsReadTheKeyLevels := by
  intro x s down hkey hnone
  obtain rfl : down = s.keyIsDown (s.getV x) := by
    unfold State.keyIsDown
    by_cases h : (s.getV x).toNat ≤ 15
    · simp [h, hkey h]
    · simp [h, hnone (by omega)]
  refine ⟨⟨_, exec_of_case (.skp x), rfl, onlyPc_skipIf ..⟩, ⟨_, exec_of_case (.sknp x), ?_, onlyPc_skipIf ..⟩⟩
  cases h : s.keyIsDown (s.getV x) <;> rfl

/-- Settles O29: the one case of FX0A. -/
theorem waitForKeyEntersTheWait : Obligations.WaitForKeyEntersTheWait := fun x _ => exec_of_case (.ldVxK x)

/-! ### The index register -/

theorem onlyI_setI (s : State) (w : Word) : OnlyI s (s.setI w) := .intro rfl

/-- The font address of any byte fits 16 bits (R232). -/
theorem fontAddr_toNat (b : Byte) : (fontAddr b).toNat = 0x050 + 5 * b.toNat := by
  have hb : b.toNat < 256 := b.isLt
  rw [fontAddr, BitVec.toNat_ofNat, fontBase]
  omega

/-- Settles O32: one `setI` each. -/
theorem indexInstructionsSetI : Obligations.IndexInstructionsSetI := fun nnn x s =>
  ⟨⟨_, exec_of_case (.ldI nnn), toNat_zext16 nnn, onlyI_setI ..⟩,
    ⟨_, exec_of_case (.addI x), by rw [State.setI_i, BitVec.toNat_add, byteToWord_toNat], onlyI_setI ..⟩,
    ⟨_, exec_of_case (.ldF x), fontAddr_toNat _, onlyI_setI ..⟩⟩

end Sys2Proof.Machine
end

section
/-! The memory transfers of spec file 45_memory_transfer.md (R233 to R236), and what later accesses see of them (R54, R62). A
store that passes its range check is `storeBytes` (Laws/Memory). -/

namespace Sys2Proof.Machine

variable {x : Reg} {s : State}

/-! ### The range checks (R53) -/

theorem inRange_regs_iff : inRange s.iAddr (regCount x) = true ↔ s.i.toNat + x.val ≤ 0xFFF := by
  rw [inRange_iff, State.iAddr, regCount]
  omega

theorem inRange_digits_iff : inRange s.iAddr 3 = true ↔ s.i.toNat + 2 ≤ 0xFFF := by
  rw [inRange_iff, State.iAddr]
  omega

/-! ### Stores and loads -/

/-- Settles O33: the three digits of VX, one byte each, are the bytes stored. -/
theorem bcdStoresThreeDigits : Obligations.BcdStoresThreeDigits := by
  intro x s hmem hin
  have hv : (s.getV x).toNat < 256 := (s.getV x).isLt
  have hbyte {k : Nat} (b : Byte) (hk : (bcdDigits (s.getV x))[k]? = some b) :
      (s.storeBytes s.iAddr (bcdDigits (s.getV x))).readByte (s.i.toNat + k) = b :=
    State.readByte_storeBytes_inside hmem.1 s.iAddr _ b hk
  refine ⟨_, exec_of_case (.ldB x (inRange_digits_iff.2 (by omega))), ?_, ?_, ?_, onlyMemory_storeBytes ..⟩
  · rw [← Nat.add_zero s.i.toNat, hbyte _ rfl, BitVec.toNat_ofNat]; omega
  · rw [hbyte _ rfl, BitVec.toNat_ofNat]; omega
  · rw [hbyte _ rfl, BitVec.toNat_ofNat]; omega

/-- Settles O34: the register block is what `storeBytes` stores. -/
theorem blockStoreWritesRegisters : Obligations.BlockStoreWritesRegisters := by
  intro x s hmem hin
  refine ⟨_, exec_of_case (.storeRegs x (inRange_regs_iff.2 (by omega))), fun r hr => ?_, ?_⟩
  · exact State.readByte_storeBytes_inside hmem.1 s.iAddr _ _ (s.regBlock_getElem? x r hr)
  · have hframe := onlyMemory_storeBytes s s.iAddr (s.regBlock x)
    rwa [s.regBlock_length] at hframe

/-- Settles O35: `loadBlock` where the block lies in memory, else the fatal entry. -/
theorem blockLoadReadsRegisters : Obligations.BlockLoadReadsRegisters := by
  refine fun x s => ⟨fun hin => ?_, fun hout => ?_⟩
  · refine ⟨_, exec_of_case (.loadRegs x (inRange_regs_iff.2 hin)), fun r hr => ?_, onlyRegs_loadBlock ..⟩
    rw [s.getV_loadBlock, if_pos hr, State.iAddr]
  · have hr : inRange s.iAddr (regCount x) = false := Bool.eq_false_iff.2 (mt inRange_regs_iff.1 (by omega))
    exact ⟨_, exec_of_case (.loadRegsFatal x hr), fatalEntry_raiseFatal ..⟩

/-- Settles O36: the fatal cases of the two stores. -/
theorem storesOutsideMemoryAreFatal : Obligations.StoresOutsideMemoryAreFatal := by
  refine fun x s => ⟨fun hout => ?_, fun hout => ?_⟩
  · have hr : inRange s.iAddr 3 = false := Bool.eq_false_iff.2 (mt inRange_digits_iff.1 (by omega))
    exact ⟨_, exec_of_case (.ldBFatal x hr), fatalEntry_raiseFatal ..⟩
  · have hr : inRange s.iAddr (regCount x) = false := Bool.eq_false_iff.2 (mt inRange_regs_iff.1 (by omega))
    exact ⟨_, exec_of_case (.storeRegsFatal x hr), fatalEntry_raiseFatal ..⟩

/-! ### Accesses after a store -/

/-- Settles O37: the load reads the bytes that the store left (O34, O35), at the same I. -/
theorem storeThenLoadRoundTrips : Obligations.StoreThenLoadRoundTrips := by
  intro x s w hmem hin
  obtain ⟨t, ht, hbytes, hframe, -, -⟩ := blockStoreWritesRegisters x s hmem (by omega)
  have hi : t.i = s.i := by rw [hframe]
  obtain ⟨u, hu, hload, hu_frame, hu_regs, -⟩ := (blockLoadReadsRegisters x { t with v := w }).1 (by rwa [hi])
  refine ⟨t, u, ht, hu, fun r hr => ?_, fun r hr => ?_, ?_⟩
  · calc u.getV r = t.readByte (t.i.toNat + r.val) := hload r hr
      _ = s.getV r := by rw [hi, hbytes r hr]
  · exact hu_regs r (by simpa using hr)
  · rw [hu_frame]; exact hi

theorem State.readByte_congr {t u : State} (hcfg : u.cfg = t.cfg) (hmem : u.mem = t.mem) (a : Nat) :
    u.readByte a = t.readByte a := by
  unfold State.readByte; rw [hcfg, hmem]

theorem wordOfBytes_toNat (hi lo : Byte) : (wordOfBytes hi lo).toNat = hi.toNat * 256 + lo.toNat := toNat_append hi lo

/-- Settles O38: the first two bytes of the block (O34) are the two a fetch at I joins. -/
theorem fetchSeesStoredBytes : Obligations.FetchSeesStoredBytes := by
  intro x s hmem hx hin
  have hx : 1 ≤ x.val := hx
  obtain ⟨t, ht, hbytes, -⟩ := blockStoreWritesRegisters x s hmem (by omega)
  refine ⟨t, ht, fun u hcfg hum hpc => ⟨?_, ?_⟩⟩
  · rw [u.canFetch_iff, hpc]
    omega
  · have h0 : t.readByte s.i.toNat = s.getV 0 := hbytes 0 (Fin.zero_le x)
    have h1 : t.readByte (s.i.toNat + 1) = s.getV 1 := hbytes 1 hx
    rw [State.fetchWord, wordOfBytes_toNat, hpc, State.readByte_congr hcfg hum, State.readByte_congr hcfg hum, h0, h1]

end Sys2Proof.Machine
end

section
/-! The commands of spec files 60_exceptions.md and 70_reset_and_hazards.md, and runs of several of them: what one `Step`,
`Tick`, `Reset` or `Load` does is one equation each, and a run is an induction over the waiting commands. -/

namespace Sys2Proof.Machine

variable {s t : State} {j : StepInput}

/-! ### Ticks (R270 to R272) -/

theorem countDown_countDown (a b : Nat) (t : Byte) : countDown b (countDown a t) = countDown (a + b) t := by
  apply BitVec.eq_of_toNat_eq
  simp only [countDown_toNat, Nat.sub_sub]

theorem State.tickBy_timersRun (s : State) (k : Nat) : (s.tickBy k).timersRun = s.timersRun := by
  rw [s.tickBy_frame]; rfl

theorem State.tickBy_pc (s : State) (k : Nat) : (s.tickBy k).pc = s.pc := by rw [s.tickBy_frame]

theorem State.tickBy_zero (s : State) : s.tickBy 0 = s := by
  have hzero (t : Byte) : countDown 0 t = t := BitVec.eq_of_toNat_eq (countDown_toNat 0 t)
  unfold State.tickBy
  split
  · rw [hzero, hzero]; rfl
  · rfl

theorem State.tickBy_tickBy (s : State) (a b : Nat) : (s.tickBy a).tickBy b = s.tickBy (a + b) := by
  cases hrun : s.timersRun with
  | true =>
    rw [State.tickBy_of_running (by rw [s.tickBy_timersRun, hrun]), State.tickBy_of_running hrun,
      State.tickBy_of_running hrun, ← countDown_countDown, ← countDown_countDown]
    rfl
  | false => rw [State.tickBy_of_stopped hrun, State.tickBy_of_stopped hrun, State.tickBy_of_stopped hrun]

/-- Settles O26: ticks add up, so `k` of them are one and then `k - 1`. -/
theorem hostTicksAreRepeatedTicks : Obligations.HostTicksAreRepeatedTicks := by
  intro k
  induction k with
  | zero => exact fun s => s.tickBy_zero
  | succ k ih =>
    intro s
    rw [Function.iterate_succ_apply, ← ih, s.tickBy_tickBy, Nat.add_comm]

/-! ### Run states -/

theorem State.isHalted_of_running (h : s.run = .running) : s.isHalted = false := by
  rw [State.isHalted, h]; rfl

theorem State.isHalted_of_awaitingKey {x : Reg} (h : s.run = .awaitingKey x) : s.isHalted = false := by
  rw [State.isHalted, h]; rfl

theorem State.isHalted_of_halted {c : Cause} {a : Word} {op : Option Word} (h : s.run = .halted c a op) :
    s.isHalted = true := by
  rw [State.isHalted, h]; rfl

theorem State.timersRun_of_halted (h : s.isHalted = true) : s.timersRun = false := by
  cases hrun : s.run with
  | running => rw [State.isHalted_of_running hrun] at h; cases h
  | awaitingKey x => rw [State.isHalted_of_awaitingKey hrun] at h; cases h
  | halted c a op => simp only [State.timersRun, hrun]

/-- Settles O25: the timers count where they run, and a tick writes no more than the timers and the empty slot. -/
theorem tickCountsTimersDown : Obligations.TickCountsTimersDown := by
  intro s
  refine ⟨_, rfl, ?_, fun hrun => ?_, fun hstop => ?_⟩
  · rw [s.tickBy_frame]
  · have htimers : s.timersRun = true := by
      rcases hrun with hrun | ⟨⟨x, hrun⟩, hcfg⟩
      · simp [State.timersRun, hrun]
      · simp [State.timersRun, hrun, hcfg]
    rw [State.tickBy_of_running htimers]
    exact ⟨countDown_toNat 1 s.dt, countDown_toNat 1 s.st⟩
  · have htimers : s.timersRun = false := by
      rcases hstop with ⟨⟨x, hrun⟩, hcfg⟩ | hhalt
      · simp [State.timersRun, hrun, hcfg]
      · exact State.timersRun_of_halted hhalt
    rw [State.tickBy_of_stopped htimers]
    exact ⟨rfl, rfl⟩

/-! ### The sound latch (R273) -/

theorem State.endStep_soundOn_of_not_halted (h : s.isHalted = false) : s.endStep.soundOn = decide (s.st ≠ 0) := by
  rw [State.endStep_of_not_halted h]

theorem State.endStep_soundOn_of_halted (h : s.isHalted = true) : s.endStep.soundOn = s.soundOn := by
  rw [State.endStep_of_halted h]

/-- The end of a `Step` recomputes the latch unless the core is halted. -/
theorem State.endStep_latch (s : State) :
    (s.endStep.isHalted = false → s.endStep.soundOn = decide (s.endStep.st ≠ 0)) ∧
      (s.endStep.isHalted = true → s.endStep.soundOn = s.soundOn) := by
  rw [State.isHalted, s.endStep_run, s.endStep_st]
  exact ⟨State.endStep_soundOn_of_not_halted, State.endStep_soundOn_of_halted⟩

/-- Settles O27: a `Step` that is not ignored ends with `endStep`, and nothing before that writes the latch. -/
theorem soundLatchFollowsStAtStepEnd : Obligations.SoundLatchFollowsStAtStepEnd := by
  intro input s t h
  obtain ⟨hh, rfl⟩ | ⟨x, -, rfl⟩ | ⟨-, u, hu, rfl⟩ := doStep_cases h
  · exact ⟨fun hrun => absurd (hh.symm.trans hrun) (by simp), fun _ => rfl⟩
  · have hlatch := State.endStep_latch ((s.beginStep input).keyWait x)
    have hsame : ((s.beginStep input).keyWait x).soundOn = s.soundOn := by rw [State.keyWait_frame]; rfl
    rwa [hsame] at hlatch
  · have hlatch := State.endStep_latch u
    have hsame : u.soundOn = s.soundOn := (fetchCase_sameContext hu).soundOn
    rwa [hsame] at hlatch

/-! ### The key wait (R214) -/

theorem State.keyWait_some {k : Key} (h : s.input.keyEvent = some k) (x : Reg) :
    s.keyWait x = (s.setV x (keyByte k)).setRun .running := by simp only [State.keyWait, h]

theorem State.keyWait_none (h : s.input.keyEvent = none) (x : Reg) : s.keyWait x = s := by simp only [State.keyWait, h]

theorem keyByte_toNat (k : Key) : (keyByte k).toNat = k.val := by
  have hk : k.val < 16 := k.isLt
  rw [keyByte, BitVec.toNat_ofNat]
  omega

/-- Settles O30: the wait's `Step` is `keyWait` between its beginning and its end. -/
theorem keyWaitStepTakesOneEvent : Obligations.KeyWaitStepTakesOneEvent := by
  intro input x s hrun hidle
  have hstep : doCommand (.step input) s = .next ((s.beginStep input).keyWait x).endStep := doStep_awaitingKey hrun input
  constructor
  · intro k hk
    rw [State.keyWait_some hk, State.endStep_of_not_halted rfl] at hstep
    refine ⟨_, hstep, ?_, ?_, by rw [← hidle]; rfl⟩
    · exact (congrArg BitVec.toNat (s.getV_setV_same x (keyByte k))).trans (keyByte_toNat k)
    · exact (onlyRegs_setV s x (keyByte k)).2.1
  · intro hk
    have hwait : (s.beginStep input).isHalted = false := State.isHalted_of_awaitingKey hrun
    rw [State.keyWait_none hk, State.endStep_of_not_halted hwait] at hstep
    rw [hstep, ← hidle]
    rfl

/-- What a waiting `Step` without a key event leaves, `rest` being the commands behind it (R214, R273). -/
def State.stillWaiting (s : State) (rest : List Command) : State :=
  { s with pending := rest, soundOn := decide (s.st ≠ 0), out := none, loadable := false }

theorem step_stillWaiting {x : Reg} {rest : List Command} (hrun : s.run = .awaitingKey x) (hidle : s.input = .idle)
    (hp : s.pending = .step j :: rest) (hkey : j.keyEvent = none) : step s = .next (s.stillWaiting rest) :=
  (step_of_pending hp).trans ((keyWaitStepTakesOneEvent j x { s with pending := rest } hrun hidle).2 hkey)

/-- Settles O31: by induction over the waiting `Step`s, each of which is `step_stillWaiting`. -/
theorem keyWaitWithoutEventNeverEnds : Obligations.KeyWaitWithoutEventNeverEnds := by
  intro x s cs
  induction cs generalizing s with
  | nil => exact fun rest _ _ hp _ => ⟨s, rfl, by rw [show rest = s.pending from hp.symm]⟩
  | cons c cs ih =>
    intro rest hrun hidle hp hcs
    obtain ⟨input, rfl, hkey⟩ := hcs c (.head _)
    obtain ⟨t, ht, hframe⟩ := ih (s.stillWaiting (cs ++ rest)) rest hrun hidle rfl fun c hc => hcs c (.tail _ hc)
    exact ⟨t, (run_succ (step_stillWaiting hrun hidle hp hkey)).trans ht, hframe⟩

/-! ### A `Step` in `Running` (R72, R262, R263) -/

/-- The instruction's address in its execute phase is the PC it was fetched from (R16). -/
theorem State.advancePc_instrAddr (s : State) : s.advancePc.instrAddr = s.pc := by
  rw [State.instrAddr, State.advancePc_pc, BitVec.add_sub_cancel]

theorem doStep_decoded {i : Instr} (hrun : s.run = .running) (hpc : s.pc.toNat + 1 ≤ 0xFFF)
    (hd : decodeWord s.fetchWord = .ok i) : doStep j s = endStepOutcome (exec i (s.beginStep j).advancePc) := by
  have hd' : decodeWord (s.beginStep j).fetchWord = .ok i := hd
  rw [doStep_running hrun, State.fetchAndExecute_of_canFetch (s := s.beginStep j) hpc, execOpcode, hd']

/-- What a `Step` at an unknown opcode leaves, `rest` being the commands behind it: the diagnostic, PC past the opcode, and the
latch (R262, R273). -/
def State.skippedUnknown (s : State) (rest : List Command) : State :=
  { s with
    pending := rest, loadable := false, pc := s.pc + 2, soundOn := decide (s.st ≠ 0),
    out := some (.diag .unknownOpcode s.pc s.fetchWord) }

theorem doStep_unknown (hrun : s.run = .running) (hpc : s.pc.toNat + 1 ≤ 0xFFF) (hidle : s.input = .idle)
    (hu : unknownSpace s.fetchWord = true) : doStep j s = .next (s.skippedUnknown s.pending) := by
  have hd : decodeWord (s.beginStep j).fetchWord = .error (.unknownOpcode s.fetchWord) := (unknownSpaceIsExact _).1 hu
  have hrun' : ((s.beginStep j).advancePc.unknownOpcode s.fetchWord).isHalted = false := State.isHalted_of_running hrun
  rw [doStep_running hrun, State.fetchAndExecute_of_canFetch (s := s.beginStep j) hpc, execOpcode, hd]
  change Host.Outcome.next ((s.beginStep j).advancePc.unknownOpcode s.fetchWord).endStep = _
  rw [State.endStep_of_not_halted hrun', ← hidle, State.unknownOpcode, State.logDiag, State.advancePc_instrAddr]
  rfl

/-- The fetch fault halts at the unchanged PC, and `endStep` leaves a halted core its latch. -/
theorem doStep_fetchFault (hrun : s.run = .running) (hpc : 0xFFF ≤ s.pc.toNat) (hidle : s.input = .idle) :
    doStep j s = .next { s with
      loadable := false, run := .halted .fetchFault s.pc none, out := some (.fatal .fetchFault s.pc none) } := by
  rw [doStep_running hrun, State.fetchAndExecute_of_fault (s := s.beginStep j) hpc, endStepOutcome_next,
    State.endStep_of_halted rfl, ← hidle]
  rfl

/-- Settles O39: with a waiting `Step` and with none, the step is `doStep` on a state that fetches the same word. -/
theorem stepRunsTheDecodedInstruction : Obligations.StepRunsTheDecodedInstruction := by
  intro s i hrun hpc hdec
  have hd : decodeWord s.fetchWord = .ok i := decode_two_ok hdec
  refine ⟨fun input rest hp => ?_, fun hp => ?_⟩
  · exact (step_of_pending hp).trans (doStep_decoded (s := { s with pending := rest }) hrun hpc hd)
  · have hframe := s.unscripted_frame
    rw [step_unscripted hp (State.isHalted_of_running hrun)]
    refine (doStep_decoded (i := i) ?_ ?_ ?_).trans ?_
    · rw [hframe]; exact hrun
    · rw [hframe]; exact hpc
    · rw [State.fetchWord_congr (by rw [hframe]) (by rw [hframe]) (by rw [hframe])]; exact hd
    · rw [← s.tickBy_pc (Config.freeTicks s.draws)]; rfl

/-- Settles O40: `doStep_unknown` on the waiting `Step`. -/
theorem unknownOpcodeIsSkipped : Obligations.UnknownOpcodeIsSkipped := fun s _ rest hrun hpc hidle hp hu =>
  (step_of_pending hp).trans (doStep_unknown (s := { s with pending := rest }) hrun hpc hidle hu)

/-- Settles O41: `doStep_fetchFault` on the waiting `Step`. -/
theorem fetchOutsideMemoryIsFatal : Obligations.FetchOutsideMemoryIsFatal := fun s _ rest hrun hpc hidle hp =>
  (step_of_pending hp).trans (doStep_fetchFault (s := { s with pending := rest }) hrun hpc hidle)

/-- A byte 0 and a byte 0 join to a word of the unknown space (R305). -/
theorem unknownSpace_zero : unknownSpace (wordOfBytes 0 0) = true := by decide

/-- Settles O42: by induction over the waiting `Step`s, each of which skips one word 0x0000 (O40). -/
theorem emptyMemoryIsSkipped : Obligations.EmptyMemoryIsSkipped := by
  intro s cs
  induction cs generalizing s with
  | nil => exact fun rest _ _ hp _ _ _ => ⟨s, rfl, rfl, by rw [show rest = s.pending from hp.symm]⟩
  | cons c cs ih =>
    intro rest hrun hidle hp hcs hpc hzero
    obtain ⟨input, rfl⟩ := hcs c (.head _)
    rw [List.length_cons] at hpc
    have hword : s.fetchWord = wordOfBytes 0 0 := by
      rw [State.fetchWord, hzero _ (by omega) (by omega), hzero _ (by omega) (by omega)]
    have hstep : step s = .next (s.skippedUnknown (cs ++ rest)) :=
      unknownOpcodeIsSkipped s input _ hrun (by omega) hidle hp ((congrArg unknownSpace hword).trans unknownSpace_zero)
    have hnext : (s.skippedUnknown (cs ++ rest)).pc.toNat = s.pc.toNat + 2 := toNat_add_two (by omega)
    obtain ⟨t, ht, htpc, hframe⟩ := ih (s.skippedUnknown (cs ++ rest)) rest hrun hidle rfl
      (fun c hc => hcs c (.tail _ hc)) (by omega) fun k hk hk' => hzero k (by omega) hk'
    exact ⟨t, (run_succ hstep).trans ht, by rw [htpc, hnext, List.length_cons]; omega, hframe⟩

/-- What a fetch and execute that halts leaves (R72, R263). -/
theorem fetchCase_halted (h : FetchCase s t) (hrun : s.run = .running) (hh : t.isHalted = true) :
    ∃ c op, t = s.halt c s.pc op ∧ (op = none ∧ c = .fetchFault ∨ op = some s.fetchWord) := by
  cases h with
  | fault => exact ⟨_, _, rfl, .inl ⟨rfl, rfl⟩⟩
  | unknown e hc hd =>
    exact absurd (hh.symm.trans (State.isHalted_of_running hrun)) (by simp)
  | exec i u hc hd hx =>
    obtain ⟨-, c, rfl⟩ | hsame | ⟨x, -, rfl⟩ := execCase_run (exec_case hx)
    · refine ⟨c, some s.fetchWord, ?_, .inr rfl⟩
      rw [encode_of_decodeWord hd, State.raiseFatal, State.advancePc_instrAddr]
      rfl
    · exact absurd (hh.symm.trans (State.isHalted_of_running (hsame.trans hrun))) (by simp)
    · cases hh

/-- Settles O43: a halted end is `fetchCase_halted`, and `endStep` leaves it as it is. -/
theorem fatalStepRestoresTheState : Obligations.FatalStepRestoresTheState := by
  intro s t input rest hrun hidle hp hstep hh
  rw [step_of_pending hp] at hstep
  obtain ⟨hh', -⟩ | ⟨x, hx, -⟩ | ⟨-, u, hu, rfl⟩ := doStep_cases hstep
  · exact absurd (hh'.symm.trans (State.isHalted_of_running hrun)) (by simp)
  · rw [show s.run = _ from hx] at hrun; cases hrun
  · have huh : u.isHalted = true := by rwa [State.isHalted, State.endStep_run] at hh
    obtain ⟨c, op, rfl, hop⟩ := fetchCase_halted hu hrun huh
    refine ⟨c, op, ?_, hop⟩
    rw [State.endStep_of_halted rfl, ← hidle]
    rfl

/-! ### The halted state (R264) -/

theorem doCommand_halted {c : Command} (hh : s.isHalted = true) (hc : c = .tick ∨ ∃ input, c = .step input) :
    doCommand c s = .next { s with out := none } := by
  obtain rfl | ⟨input, rfl⟩ := hc
  · rw [doCommand, doTick, State.tickBy_of_stopped (State.timersRun_of_halted hh)]
  · exact doStep_halted hh input

/-- Settles O44: by induction over the waiting commands, each of which empties the slot and no more. -/
theorem haltedIgnoresStepAndTick : Obligations.HaltedIgnoresStepAndTick := by
  intro s c a op hrun
  refine ⟨fun cs => ?_, fun hp => step_halted hp hrun⟩
  induction cs generalizing s with
  | nil => exact fun _ _ hne => absurd rfl hne
  | cons d cs ih =>
    intro rest hp _ hcs
    have hh : s.isHalted = true := State.isHalted_of_halted hrun
    have hstep := (step_of_pending hp).trans
      (doCommand_halted (s := { s with pending := cs ++ rest }) hh (hcs d (.head _)))
    refine (run_succ hstep).trans ?_
    by_cases hcs' : cs = []
    · subst hcs'; rfl
    · exact ih { s with pending := cs ++ rest, out := none } hrun rest rfl hcs' fun d hd => hcs d (.tail _ hd)

/-! ### `Reset` and `Load` (R39, R300, R302) -/

/-- Settles O45: the reset state, which lists no cell of memory. -/
theorem resetGivesEveryElementItsValue : Obligations.ResetGivesEveryElementItsValue := by
  intro s
  refine ⟨_, rfl, fun a _ => ?_, fun r => ?_, rfl, rfl, rfl, rfl, rfl, fun px py _ _ => getPixel_clear px py, rfl, rfl, rfl,
    rfl, rfl⟩
  · have hfont : (fontBase ≤ a ∧ a < fontBase + fontSize) ↔ (0x050 ≤ a ∧ a ≤ 0x09F) := by
      simp only [fontBase, fontSize]; omega
    change resetByte s.cfg a = _
    simp only [resetByte, hfont]
    rfl
  · simp [State.getV, State.resetOf]

/-- Settles O46: `storeBytes` of the ROM, the oversize halt, or the refusal. -/
theorem loadWritesTheRomOrFails : Obligations.LoadWritesTheRomOrFails := by
  intro rom s
  refine ⟨fun hl hmem hlen => ?_, fun hl hlen => ?_, doLoad_refused⟩
  · refine ⟨_, doLoad_fits hl ((romFits_iff rom).2 hlen), fun k b hk => ?_, fun k hk => ?_, ?_⟩
    · exact State.readByte_storeBytes_inside (s := { s with out := none, loadable := false }) hmem.1 progBase rom b hk
    · exact State.readByte_storeBytes_outside { s with out := none, loadable := false } progBase rom hk
    · exact State.storeBytes_frame { s with out := none, loadable := false } progBase rom
  · exact doLoad_oversize hl (Bool.eq_false_iff.2 (mt (romFits_iff rom).1 (by omega)))

end Sys2Proof.Machine
end
